-- ==== Sys2Proof/Word.lean ====
section
/-! DEFINITION. The two word types of GUS-CRC: 64-bit registers (spec/00_scope.md R6 XLEN, R7) and
8-bit memory entries (spec/10_state.md R41). Every value is unsigned; the operators are those of R8,
which are BitVec's own: `^^^`, `&&&`, `|||`, `<<<` (bits past bit 63 are lost) and `>>>` (logical). -/

namespace Sys2Proof

/-- A register value: XLEN = 64 bits, unsigned (R6, R7). -/
abbrev Word := BitVec 64

/-- One entry of BUF, NAME or ONAME: 8 bits (R41). -/
abbrev Byte := BitVec 8

end Sys2Proof
end

