-- ==== Sys2Proof/Syntax.lean ====
section
/-! DEFINITION. The eight commands of GUS-CRC (spec/30_encoding.md R92, spec/opcode_table.json). A command is
this block's analogue of an instruction (spec/00_scope.md R11). -/

namespace Sys2Proof

/-- One constructor per row of the opcode map R92. The operands are the encoded fields of R91, as the
unsigned numbers the spec reads them as; every other operand is an implicit register. -/
inductive Instr where
  /-- CFG, opcode 0x01: construct the calculator from the staging registers (R130). -/
  | cfg
  /-- LOOKUP, opcode 0x02: construct the calculator of the variant NAME names (R160). -/
  | lookup
  /-- ENUM idx, opcode 0x03: write the canonical name of entry `idx` to ONAME (R162). -/
  | enum (idx : Nat)
  /-- CALC, opcode 0x10: CRC of BUF by the engine the width selects (R180). -/
  | calculate
  /-- CALCT, opcode 0x11: CRC of BUF by the table engine (R141). -/
  | calct
  /-- CALCD, opcode 0x12: CRC of BUF by the bit-serial engine (R151). -/
  | calcd
  /-- REFLECT w, opcode 0x20: bit-reflect OPA over `w` bits (R111). -/
  | reflect (w : Nat)
  /-- CHECK, opcode 0x30: known-answer test of the calculator (R170). -/
  | check
  deriving DecidableEq, Repr

end Sys2Proof
end

