-- ==== Sys2Proof/WellFormed.lean ====
section
/-! DEFINITION. Which commands have an encoding (spec/30_encoding.md R96: "An out-of-range operand is an
assembly error, not an encoding"). -/

namespace Sys2Proof

/-- R96: ENUM takes 0 ≤ idx ≤ 255 (the 8-bit field IDX) and REFLECT takes 0 ≤ w ≤ 127 (the 7-bit field W);
the other commands have no operand. Indices ≥ CAT_COUNT and widths outside 1..64 are encodable (R91): the
command itself reports them. -/
def Instr.wf : Instr → Bool
  | .enum idx => decide (idx ≤ 255)
  | .reflect w => decide (w ≤ 127)
  | .cfg => true
  | .lookup => true
  | .calculate => true
  | .calct => true
  | .calcd => true
  | .check => true

end Sys2Proof
end

