-- ==== Sys2Proof/Decode.lean ====
section
/-! DEFINITION. The command word CMDW: its fields, the decoder, the encoder and the opcode map
(spec/30_encoding.md R90–R94, R96). -/

namespace Sys2Proof

/-- Field OPC, bits 7:0 (R90). -/
def opcField (v : Word) : BitVec 8 := v.extractLsb' 0 8
/-- Field IDX, bits 15:8 (R90): used by ENUM only. -/
def idxField (v : Word) : BitVec 8 := v.extractLsb' 8 8
/-- Field W, bits 22:16 (R90): used by REFLECT only. -/
def wField (v : Word) : BitVec 7 := v.extractLsb' 16 7
/-- Field RSV, bits 63:23 (R90): must be 0. -/
def rsvField (v : Word) : BitVec 41 := v.extractLsb' 23 41

/-- Why a word is an illegal command: the three ways R94 lists. -/
inductive Illegal where
  /-- RSV ≠ 0. -/
  | reservedBits
  /-- OPC is none of the eight opcodes. -/
  | unassignedOpcode
  /-- A field its OPC does not use is not zero. -/
  | unusedField
  deriving DecidableEq, Repr

/-- What `Decode` of R93 answers: a command or ILLEGAL. -/
inductive Decoded where
  | command (i : Instr)
  | illegal (why : Illegal)
  deriving DecidableEq, Repr

/-- A command is taken only when the fields it does not use are zero (R93). -/
def onlyIf (unusedZero : Bool) (i : Instr) : Decoded :=
  if unusedZero then .command i else .illegal .unusedField

/-- `Decode` of R93, total on all 2^64 words. IDX and W are read as unsigned numbers (R91). -/
def decode (v : Word) : Decoded :=
  if rsvField v ≠ 0 then .illegal .reservedBits
  else if opcField v = 0x01 then onlyIf (idxField v == 0 && wField v == 0) .cfg
  else if opcField v = 0x02 then onlyIf (idxField v == 0 && wField v == 0) .lookup
  else if opcField v = 0x03 then onlyIf (wField v == 0) (.enum (idxField v).toNat)
  else if opcField v = 0x10 then onlyIf (idxField v == 0 && wField v == 0) .calculate
  else if opcField v = 0x11 then onlyIf (idxField v == 0 && wField v == 0) .calct
  else if opcField v = 0x12 then onlyIf (idxField v == 0 && wField v == 0) .calcd
  else if opcField v = 0x20 then onlyIf (idxField v == 0) (.reflect (wField v).toNat)
  else if opcField v = 0x30 then onlyIf (idxField v == 0 && wField v == 0) .check
  else .illegal .unassignedOpcode

/-- The opcode of each command (R92). -/
def opcode : Instr → BitVec 8
  | .cfg => 0x01
  | .lookup => 0x02
  | .enum _ => 0x03
  | .calculate => 0x10
  | .calct => 0x11
  | .calcd => 0x12
  | .reflect _ => 0x20
  | .check => 0x30

/-- The word of a command: the opcode in OPC, ENUM's index in IDX, REFLECT's width in W, all other bits 0
(R90, R96: `0x03 | (idx << 8)`, `0x20 | (w << 16)`). -/
def encode (i : Instr) : Word :=
  match i with
  | .enum idx => (opcode i).setWidth 64 ||| (BitVec.ofNat 64 idx <<< 8)
  | .reflect w => (opcode i).setWidth 64 ||| (BitVec.ofNat 64 w <<< 16)
  | .cfg => (opcode i).setWidth 64
  | .lookup => (opcode i).setWidth 64
  | .calculate => (opcode i).setWidth 64
  | .calct => (opcode i).setWidth 64
  | .calcd => (opcode i).setWidth 64
  | .check => (opcode i).setWidth 64

/-- One row of the opcode map R92: a word `v` is of the row iff `v & mask = pattern`. -/
structure OpcodeRow where
  mnemonic : String
  pattern : Word
  mask : Word
  deriving DecidableEq, Repr

/-- The opcode map R92 as the spec prints it. The decoder above does not use it; that the two agree is a
statement. -/
def opcodeRows : List OpcodeRow :=
  [⟨"CFG", 0x0000000000000001, 0xFFFFFFFFFFFFFFFF⟩,
   ⟨"LOOKUP", 0x0000000000000002, 0xFFFFFFFFFFFFFFFF⟩,
   ⟨"ENUM", 0x0000000000000003, 0xFFFFFFFFFFFF00FF⟩,
   ⟨"CALC", 0x0000000000000010, 0xFFFFFFFFFFFFFFFF⟩,
   ⟨"CALCT", 0x0000000000000011, 0xFFFFFFFFFFFFFFFF⟩,
   ⟨"CALCD", 0x0000000000000012, 0xFFFFFFFFFFFFFFFF⟩,
   ⟨"REFLECT", 0x0000000000000020, 0xFFFFFFFFFF80FFFF⟩,
   ⟨"CHECK", 0x0000000000000030, 0xFFFFFFFFFFFFFFFF⟩]

/-- The mnemonic of a command (R92). -/
def mnemonic : Instr → String
  | .cfg => "CFG"
  | .lookup => "LOOKUP"
  | .enum _ => "ENUM"
  | .calculate => "CALC"
  | .calct => "CALCT"
  | .calcd => "CALCD"
  | .reflect _ => "REFLECT"
  | .check => "CHECK"

/-- A word matches a row of the opcode map (R92). -/
def OpcodeRow.hit (r : OpcodeRow) (v : Word) : Bool := v &&& r.mask == r.pattern

/-- The host's question about one row of the opcode table: the command the decoder reads from the `nbits`-bit
word `w`. A command is one 64-bit value, never split into bytes (R68, R90), so the bits above `nbits` are 0. -/
def decodeTableWord (nbits w : Nat) : Option Instr :=
  match decode (BitVec.ofNat 64 (w % 2 ^ nbits)) with
  | .command i => some i
  | .illegal _ => none

end Sys2Proof
end

