-- ==== Sys2Proof/Config.lean ====
section
/-! DEFINITION. What an instance of GUS-CRC fixes (spec/00_scope.md R6), the form of a catalogue record
(spec/41_catalog.md R120), the bases of the address map (spec/20_memory.md R60), and the one free value of the
spec: what a read returns where the spec says "any value" (R63, R229). The catalogue's contents are in
Machine/Catalog.lean. -/

namespace Sys2Proof

/-- WMIN (R6): the least legal CRC width. -/
abbrev wMin : Nat := 1
/-- WMAX (R6): the greatest legal CRC width. -/
abbrev wMax : Nat := 64
/-- TABLE_THRESHOLD (R6): the table is used iff the width is greater than this value. -/
abbrev tableThreshold : Nat := 7
/-- TABLE_ENTRIES (R6). -/
abbrev tableEntries : Nat := 256

/-- Base of the NAME window (R60). -/
abbrev nameBase : Nat := 0x1000
/-- Base of the ONAME window (R60). -/
abbrev onameBase : Nat := 0x2000
/-- Base of the TABLE window (R60). -/
abbrev tableBase : Nat := 0x3000
/-- Base of the BUF window (R60). -/
abbrev bufBase : Nat := 0x100000

/-- A name is a byte string (R120). -/
abbrev Name := List Byte

/-- A catalogue record (R120). `names` is a non-empty ordered list: `canonicalName` is names[0], the
"canonical/display name", and `furtherNames` are names[1..] in order. -/
structure Variant where
  canonicalName : Name
  furtherNames : List Name
  width : Nat
  poly : Word
  init : Word
  refIn : Bool
  refOut : Bool
  xorOut : Word
  checkValue : Word
  deriving DecidableEq, Repr

/-- All aliases of a record, in order: names[0], names[1], … (R120). -/
def Variant.names (v : Variant) : List Name := v.canonicalName :: v.furtherNames

/-- The three OPEN parameters of an instance (R6, R45 `Config`). It is held in State, read-only: the CATALOG
ROM is part of the architectural state (R20, R43), and no step writes any of the three (R224). -/
structure Config where
  /-- BUF_SIZE: bytes in BUF. -/
  bufSize : Nat
  /-- NAME_MAX: bytes in each of NAME and ONAME. -/
  nameMax : Nat
  /-- CATALOG: the variant catalogue ROM, in index order. -/
  catalog : List Variant
  deriving DecidableEq, Repr

/-- FREE VALUE (assumption log 3): the n-th value the model draws where the spec says a read returns "any
value" (R63: an unwritten NAME or BUF byte; R229: a read while BUSY = 1; R73: a command's outcome before BUSY = 0
is seen). It has no body, so nothing can be
proved of the number drawn. -/
opaque Config.freeDraw : Nat → Word

end Sys2Proof
end

