-- ==== Sys2Proof/Machine/Catalog.lean ====
section
/-! DEFINITION. The variant catalogue: the default CATALOG (spec/41_catalog.md R125), name equality
(spec/45_registry.md R161), the well-formedness rules (R121) and the default parameters (spec/00_scope.md R6).
Every parameter value of R125 but three check values and the names of R123(e) is, in the spec's own words,
"[from general knowledge, not in source]" (assumption log 8). Each row below reads: canonical name, further
aliases, width, poly, init, refin, refout, xorout, check. -/

namespace Sys2Proof.Machine

/-- The byte string of an ASCII text. A character outside ASCII gives its code point modulo 256: DESIGN CHOICE
(assumption log 16). -/
def ascii (text : String) : Name := text.toList.map fun c => BitVec.ofNat 8 c.toNat

/-- The default CATALOG (R125), widths 3 to 7: records 0–10. -/
def catalogNarrow : List Variant :=
  [⟨ascii "CRC-3/ROHC", [], 3, 0x3, 0x7, true, true, 0x0, 0x6⟩,
   ⟨ascii "CRC-4/ITU", [], 4, 0x3, 0x0, true, true, 0x0, 0x7⟩,
   ⟨ascii "CRC-5/EPC", [], 5, 0x09, 0x09, false, false, 0x00, 0x00⟩,
   ⟨ascii "CRC-5/ITU", [], 5, 0x15, 0x00, true, true, 0x00, 0x07⟩,
   ⟨ascii "CRC-5/USB", [], 5, 0x05, 0x1F, true, true, 0x1F, 0x19⟩,
   ⟨ascii "CRC-6/CDMA2000-A", [], 6, 0x27, 0x3F, false, false, 0x00, 0x0D⟩,
   ⟨ascii "CRC-6/CDMA2000-B", [], 6, 0x07, 0x3F, false, false, 0x00, 0x3B⟩,
   ⟨ascii "CRC-6/DARC", [], 6, 0x19, 0x00, true, true, 0x00, 0x26⟩,
   ⟨ascii "CRC-6/ITU", [], 6, 0x03, 0x00, true, true, 0x00, 0x06⟩,
   ⟨ascii "CRC-7", [], 7, 0x09, 0x00, false, false, 0x00, 0x75⟩,
   ⟨ascii "CRC-7/ROHC", [], 7, 0x4F, 0x7F, true, true, 0x00, 0x53⟩]

/-- The default CATALOG (R125), width 8: records 11–20. -/
def catalog8 : List Variant :=
  [⟨ascii "CRC-8", [], 8, 0x07, 0x00, false, false, 0x00, 0xF4⟩,
   ⟨ascii "CRC-8/CDMA2000", [], 8, 0x9B, 0xFF, false, false, 0x00, 0xDA⟩,
   ⟨ascii "CRC-8/DARC", [], 8, 0x39, 0x00, true, true, 0x00, 0x15⟩,
   ⟨ascii "CRC-8/DVB-S2", [], 8, 0xD5, 0x00, false, false, 0x00, 0xBC⟩,
   ⟨ascii "CRC-8/EBU", [], 8, 0x1D, 0xFF, true, true, 0x00, 0x97⟩,
   ⟨ascii "CRC-8/I-CODE", [], 8, 0x1D, 0xFD, false, false, 0x00, 0x7E⟩,
   ⟨ascii "CRC-8/ITU", [], 8, 0x07, 0x00, false, false, 0x55, 0xA1⟩,
   ⟨ascii "CRC-8/MAXIM", [ascii "DOW-CRC"], 8, 0x31, 0x00, true, true, 0x00, 0xA1⟩,
   ⟨ascii "CRC-8/ROHC", [], 8, 0x07, 0xFF, true, true, 0x00, 0xD0⟩,
   ⟨ascii "CRC-8/WCDMA", [], 8, 0x9B, 0x00, true, true, 0x00, 0x25⟩]

/-- The default CATALOG (R125), widths 10 to 15: records 21–29. -/
def catalog10to15 : List Variant :=
  [⟨ascii "CRC-10", [], 10, 0x233, 0x000, false, false, 0x000, 0x199⟩,
   ⟨ascii "CRC-10/CDMA2000", [], 10, 0x3D9, 0x3FF, false, false, 0x000, 0x233⟩,
   ⟨ascii "CRC-11", [], 11, 0x385, 0x01A, false, false, 0x000, 0x5A3⟩,
   ⟨ascii "CRC-12/3GPP", [], 12, 0x80F, 0x000, false, true, 0x000, 0xDAF⟩,
   ⟨ascii "CRC-12/CDMA2000", [], 12, 0xF13, 0xFFF, false, false, 0x000, 0xD4D⟩,
   ⟨ascii "CRC-12/DECT", [ascii "X-CRC-12"], 12, 0x80F, 0x000, false, false, 0x000, 0xF5B⟩,
   ⟨ascii "CRC-14/DARC", [], 14, 0x0805, 0x0000, true, true, 0x0000, 0x082D⟩,
   ⟨ascii "CRC-15", [], 15, 0x4599, 0x0000, false, false, 0x0000, 0x059E⟩,
   ⟨ascii "CRC-15/MPT1327", [], 15, 0x6815, 0x0000, false, false, 0x0001, 0x2566⟩]

/-- The default CATALOG (R125), width 16: records 30–41. -/
def catalog16a : List Variant :=
  [⟨ascii "CRC-16/ARC", [ascii "ARC", ascii "CRC-16", ascii "CRC-IBM", ascii "CRC-16/LHA"], 16, 0x8005, 0x0000, true, true, 0x0000, 0xBB3D⟩,
   ⟨ascii "CRC-16/AUG-CCITT", [], 16, 0x1021, 0x1D0F, false, false, 0x0000, 0xE5CC⟩,
   ⟨ascii "CRC-16/BUYPASS", [], 16, 0x8005, 0x0000, false, false, 0x0000, 0xFEE8⟩,
   ⟨ascii "CRC-16/CCITT-FALSE", [], 16, 0x1021, 0xFFFF, false, false, 0x0000, 0x29B1⟩,
   ⟨ascii "CRC-16/CDMA2000", [], 16, 0xC867, 0xFFFF, false, false, 0x0000, 0x4C06⟩,
   ⟨ascii "CRC-16/DDS-110", [], 16, 0x8005, 0x800D, false, false, 0x0000, 0x9ECF⟩,
   ⟨ascii "CRC-16/DECT-R", [ascii "R-CRC-16"], 16, 0x0589, 0x0000, false, false, 0x0001, 0x007E⟩,
   ⟨ascii "CRC-16/DECT-X", [ascii "X-CRC-16"], 16, 0x0589, 0x0000, false, false, 0x0000, 0x007F⟩,
   ⟨ascii "CRC-16/DNP", [], 16, 0x3D65, 0x0000, true, true, 0xFFFF, 0xEA82⟩,
   ⟨ascii "CRC-16/EN-13757", [], 16, 0x3D65, 0x0000, false, false, 0xFFFF, 0xC2B7⟩,
   ⟨ascii "CRC-16/GENIBUS", [ascii "CRC-16/EPC", ascii "CRC-16/I-CODE", ascii "CRC-16/DARC"], 16, 0x1021, 0xFFFF, false, false, 0xFFFF, 0xD64E⟩,
   ⟨ascii "CRC-16/MAXIM", [], 16, 0x8005, 0x0000, true, true, 0xFFFF, 0x44C2⟩]

/-- The default CATALOG (R125), width 16, continued: records 42–52. -/
def catalog16b : List Variant :=
  [⟨ascii "CRC-16/MCRF4XX", [], 16, 0x1021, 0xFFFF, true, true, 0x0000, 0x6F91⟩,
   ⟨ascii "CRC-16/RIELLO", [], 16, 0x1021, 0xB2AA, true, true, 0x0000, 0x63D0⟩,
   ⟨ascii "CRC-16/T10-DIF", [], 16, 0x8BB7, 0x0000, false, false, 0x0000, 0xD0DB⟩,
   ⟨ascii "CRC-16/TELEDISK", [], 16, 0xA097, 0x0000, false, false, 0x0000, 0x0FB3⟩,
   ⟨ascii "CRC-16/TMS37157", [], 16, 0x1021, 0x89EC, true, true, 0x0000, 0x26B1⟩,
   ⟨ascii "CRC-16/USB", [], 16, 0x8005, 0xFFFF, true, true, 0xFFFF, 0xB4C8⟩,
   ⟨ascii "CRC-A", [], 16, 0x1021, 0xC6C6, true, true, 0x0000, 0xBF05⟩,
   ⟨ascii "CRC-16/KERMIT", [ascii "KERMIT", ascii "CRC-16/CCITT", ascii "CRC-16/CCITT-TRUE", ascii "CRC-CCITT"], 16, 0x1021, 0x0000, true, true, 0x0000, 0x2189⟩,
   ⟨ascii "CRC-16/MODBUS", [ascii "MODBUS"], 16, 0x8005, 0xFFFF, true, true, 0x0000, 0x4B37⟩,
   ⟨ascii "CRC-16/X-25", [ascii "X-25", ascii "CRC-16/IBM-SDLC", ascii "CRC-16/ISO-HDLC", ascii "CRC-B"], 16, 0x1021, 0xFFFF, true, true, 0xFFFF, 0x906E⟩,
   ⟨ascii "CRC-16/XMODEM", [ascii "XMODEM", ascii "ZMODEM", ascii "CRC-16/ACORN"], 16, 0x1021, 0x0000, false, false, 0x0000, 0x31C3⟩]

/-- The default CATALOG (R125), widths 24 to 40: records 53–66. -/
def catalog24to40 : List Variant :=
  [⟨ascii "CRC-24", [ascii "CRC-24/OPENPGP"], 24, 0x864CFB, 0xB704CE, false, false, 0x000000, 0x21CF02⟩,
   ⟨ascii "CRC-24/FLEXRAY-A", [], 24, 0x5D6DCB, 0xFEDCBA, false, false, 0x000000, 0x7979BD⟩,
   ⟨ascii "CRC-24/FLEXRAY-B", [], 24, 0x5D6DCB, 0xABCDEF, false, false, 0x000000, 0x1F23B8⟩,
   ⟨ascii "CRC-31/PHILLIPS", [], 31, 0x04C11DB7, 0x7FFFFFFF, false, false, 0x7FFFFFFF, 0x0CE9E46C⟩,
   ⟨ascii "CRC-32", [ascii "CRC-32/ADCCP", ascii "PKZIP"], 32, 0x04C11DB7, 0xFFFFFFFF, true, true, 0xFFFFFFFF, 0xCBF43926⟩,
   ⟨ascii "CRC-32/BZIP2", [ascii "CRC-32/AAL5", ascii "CRC-32/DECT-B", ascii "B-CRC-32"], 32, 0x04C11DB7, 0xFFFFFFFF, false, false, 0xFFFFFFFF, 0xFC891918⟩,
   ⟨ascii "CRC-32C", [ascii "CRC-32/ISCSI", ascii "CRC-32/CASTAGNOLI"], 32, 0x1EDC6F41, 0xFFFFFFFF, true, true, 0xFFFFFFFF, 0xE3069283⟩,
   ⟨ascii "CRC-32D", [], 32, 0xA833982B, 0xFFFFFFFF, true, true, 0xFFFFFFFF, 0x87315576⟩,
   ⟨ascii "JAMCRC", [], 32, 0x04C11DB7, 0xFFFFFFFF, true, true, 0x00000000, 0x340BC6D9⟩,
   ⟨ascii "CRC-32/MPEG-2", [], 32, 0x04C11DB7, 0xFFFFFFFF, false, false, 0x00000000, 0x0376E6E7⟩,
   ⟨ascii "CRC-32/POSIX", [ascii "CKSUM"], 32, 0x04C11DB7, 0x00000000, false, false, 0xFFFFFFFF, 0x765E7680⟩,
   ⟨ascii "CRC-32Q", [], 32, 0x814141AB, 0x00000000, false, false, 0x00000000, 0x3010BF7F⟩,
   ⟨ascii "XFER", [], 32, 0x000000AF, 0x00000000, false, false, 0x00000000, 0xBD0BE338⟩,
   ⟨ascii "CRC-40/GSM", [], 40, 0x0004820009, 0x0000000000, false, false, 0xFFFFFFFFFF, 0xD4164FC646⟩]

/-- The default CATALOG of R125, in its order: index k of the spec is index k of this list. -/
def defaultCatalog : List Variant :=
  catalogNarrow ++ catalog8 ++ catalog10to15 ++ catalog16a ++ catalog16b ++ catalog24to40

/-- The instance with the proposed defaults of R6: BUF_SIZE = 4096, NAME_MAX = 32, the default CATALOG
(assumption log 1). -/
def defaultConfig : Config := ⟨4096, 32, defaultCatalog⟩

/-- `Fold` of R161: 'a'..'z' to 'A'..'Z', every other byte as it is. -/
def fold (c : Byte) : Byte := if 0x61 ≤ c.toNat ∧ c.toNat ≤ 0x7A then c - 0x20 else c

/-- `NameEq` of R161: equal lengths, and equal bytes after folding. -/
def nameEq : Name → Name → Bool
  | [], [] => true
  | a :: as, q :: qs => fold a == fold q && nameEq as qs
  | [], _ :: _ => false
  | _ :: _, [] => false

/-- Every alias of the catalogue, in catalogue order (R121(e)). -/
def allNames (catalog : List Variant) : List Name := catalog.flatMap Variant.names

/-- R121(e) on one list of aliases: no two are equal under case folding. -/
def namesDistinct : List Name → Bool
  | [] => true
  | a :: rest => rest.all (fun q => !nameEq a q) && namesDistinct rest

/-- R121(d): 1..NAME_MAX bytes, each printable ASCII 0x20..0x7E. -/
def nameOk (nameMax : Nat) (a : Name) : Bool :=
  decide (1 ≤ a.length ∧ a.length ≤ nameMax) && a.all fun c => decide (0x20 ≤ c.toNat ∧ c.toNat ≤ 0x7E)

/-- R121(b), (c), (d) on one record: a legal width, and poly, init, xorOut and checkValue each ≤ Mask(width),
that is less than 2^width (R10). -/
def variantOk (nameMax : Nat) (v : Variant) : Bool :=
  decide (wMin ≤ v.width ∧ v.width ≤ wMax) &&
    decide (v.poly.toNat < 2 ^ v.width ∧ v.init.toNat < 2 ^ v.width ∧
      v.xorOut.toNat < 2 ^ v.width ∧ v.checkValue.toNat < 2 ^ v.width) &&
    v.names.all (nameOk nameMax)

/-- CATALOG is well-formed: R121(a)–(e). Reset checks it (R222). -/
def catalogWf (cfg : Config) : Bool :=
  decide (1 ≤ cfg.catalog.length ∧ cfg.catalog.length ≤ 255) &&
    cfg.catalog.all (variantOk cfg.nameMax) && namesDistinct (allNames cfg.catalog)

/-- The parameters are legal: the ranges R6 gives BUF_SIZE and NAME_MAX, and a well-formed CATALOG. That
NAME_MAX is at least the longest alias is R121(d). -/
def configWf (cfg : Config) : Bool :=
  decide (1 ≤ cfg.bufSize ∧ cfg.bufSize ≤ 0x100000) && decide (cfg.nameMax ≤ 255) && catalogWf cfg

end Sys2Proof.Machine
end

