-- ==== Sys2Proof/Machine/Crc.lean ====
section
/-! DEFINITION. The pure functions of the CRC core: Mask and HighBit (spec/00_scope.md R10), Reflect
(spec/40_reflect.md R110), BuildTable (spec/42_construct_table.md R131), TableCRC (spec/43_table_calc.md R140),
DirectCRC (spec/44_direct.md R150) and Dispatch (spec/47_dispatch.md R181), each in the shape of the spec's
pseudocode. The 64-bit working registers keep their unmasked high bits, as R140 and R150 say. -/

namespace Sys2Proof.Machine

/-- `Mask(w) = (((1 << (w-1)) - 1) << 1) | 1` (R10), for 1 ≤ w ≤ 64. -/
def mask (w : Nat) : Word := (((1#64 <<< (w - 1)) - 1#64) <<< 1) ||| 1#64

/-- `HighBit(w) = 1 << (w-1)` (R10), for 1 ≤ w ≤ 64. -/
def highBit (w : Nat) : Word := 1#64 <<< (w - 1)

/-- `Reflect(v, w)` (R110), for 1 ≤ w ≤ 64: bit k of the field goes to bit w-1-k. -/
def reflect (v : Word) (w : Nat) : Word :=
  (List.range w).foldl (fun out k => if v.getLsbD k then out ||| (1#64 <<< (w - 1 - k)) else out) 0#64

/-- A byte bit-reflected, as the engines use it: `Reflect(b, 8)`. -/
def reflectByte (b : Byte) : Byte := (reflect (b.setWidth 64) 8).setWidth 8

/-- What a calculation reads of a calculator or of a catalogue record: width, poly, init, xorOut and the two
reflection flags (R140, R150). -/
structure CrcParams where
  width : Nat
  poly : Word
  init : Word
  xorOut : Word
  refIn : Bool
  refOut : Bool
  deriving DecidableEq, Repr

/-- One round of R131: shift left one bit, and XOR in the polynomial if the high bit was set before. -/
def tableRound (w : Nat) (poly r : Word) : Word :=
  let bit := r &&& highBit w
  let r := r <<< 1
  if bit ≠ 0 then r ^^^ poly else r

/-- `for round in 1..n` of R131. -/
def tableRounds (w : Nat) (poly : Word) : Nat → Word → Word
  | 0, r => r
  | n + 1, r => tableRounds w poly n (tableRound w poly r)

/-- Entry i of `BuildTable(w, poly, refIn)` (R131), for 8 ≤ w ≤ 64. -/
def tableEntry (w : Nat) (poly : Word) (refIn : Bool) (i : Byte) : Word :=
  let r := if refIn then reflectByte i else i
  let r := tableRounds w poly 8 (r.setWidth 64 <<< (w - 8))
  let r := if refIn then reflect r w else r
  r &&& mask w

/-- TABLE: 256 entries of 64 bits (R38). -/
abbrev Table := Vector Word tableEntries

/-- `BuildTable(w, poly, refIn)` (R131), for 8 ≤ w ≤ 64. -/
def buildTable (w : Nat) (poly : Word) (refIn : Bool) : Table :=
  Vector.ofFn fun i => tableEntry w poly refIn (BitVec.ofNat 8 i.val)

/-- `T[i]` for a byte i. -/
def tableAt (t : Table) (i : Byte) : Word := t[i.toNat]'i.isLt

/-- The byte step of TableCRC (R140 step 2). -/
def tableByte (a : CrcParams) (t : Table) (crc : Word) (b : Byte) : Word :=
  if a.refIn then (crc >>> 8) ^^^ tableAt t (crc.setWidth 8 ^^^ b)
  else (crc <<< 8) ^^^ tableAt t ((crc >>> (a.width - 8)).setWidth 8 ^^^ b)

/-- The register TableCRC starts from (R140 step 1). -/
def tableStart (a : CrcParams) : Word := if a.refIn then reflect a.init a.width else a.init

/-- Steps 3 and 4 of R140: reflect iff refIn ≠ refOut, XOR xorOut, mask. -/
def tableFinish (a : CrcParams) (crc : Word) : Word :=
  let crc := if a.refIn != a.refOut then reflect crc a.width else crc
  (crc ^^^ a.xorOut) &&& mask a.width

/-- `TableCRC(A, T, bytes)` (R140), for 8 ≤ A.width ≤ 64. -/
def tableCrc (a : CrcParams) (t : Table) (bytes : List Byte) : Word :=
  tableFinish a (bytes.foldl (tableByte a t) (tableStart a))

/-- One bit step of DirectCRC (R150): the high bit before the shift, combined with the input bit. -/
def directBit (a : CrcParams) (crc : Word) (inputBit : Bool) : Word :=
  let bit := (crc &&& highBit a.width) != 0
  let crc := crc <<< 1
  if bit != inputBit then crc ^^^ a.poly else crc

/-- `for j in 0..n-1 descending` of R150: the input bits n-1 down to 0 of c. -/
def directBits (a : CrcParams) (c : Byte) : Nat → Word → Word
  | 0, crc => crc
  | j + 1, crc => directBits a c j (directBit a crc (c.getLsbD j))

/-- The byte step of DirectCRC (R150): the byte is reflected first iff refIn, then taken bit 7 first. -/
def directByte (a : CrcParams) (crc : Word) (b : Byte) : Word :=
  directBits a (if a.refIn then reflectByte b else b) 8 crc

/-- The end of R150: reflect iff refOut, XOR xorOut, mask. -/
def directFinish (a : CrcParams) (crc : Word) : Word :=
  let crc := if a.refOut then reflect crc a.width else crc
  (crc ^^^ a.xorOut) &&& mask a.width

/-- `DirectCRC(A, bytes)` (R150), for 1 ≤ A.width ≤ 64. The initial value is not reflected (R152(e)). -/
def directCrc (a : CrcParams) (bytes : List Byte) : Word :=
  directFinish a (bytes.foldl (directByte a) a.init)

/-- `Dispatch(A, T, bytes)` (R181): the table engine iff the width is greater than 7. -/
def dispatchCrc (a : CrcParams) (t : Table) (bytes : List Byte) : Word :=
  if a.width > tableThreshold then tableCrc a t bytes else directCrc a bytes

/-- KAT (R170): the nine bytes of "123456789", a constant inside the block. -/
def kat : List Byte := [0x31, 0x32, 0x33, 0x34, 0x35, 0x36, 0x37, 0x38, 0x39]

/-- The calculation parameters of a catalogue record. -/
def variantParams (v : Variant) : CrcParams := ⟨v.width, v.poly, v.init, v.xorOut, v.refIn, v.refOut⟩

/-- Known-answer validity of a record (R122): `Dispatch(V, "123456789") = V.checkValue`. -/
def variantKatValid (v : Variant) : Bool :=
  dispatchCrc (variantParams v) (buildTable v.width v.poly v.refIn) kat == v.checkValue

end Sys2Proof.Machine
end

