-- ==== Sys2Proof/Machine/State.lean ====
section
/-! DEFINITION. The state of GUS-CRC (spec/10_state.md R20, R45), field by field, with the two agents' share of
it: what the HOST has still to do and what it has read (spec/70_reset_and_hazards.md R224, R227). INVENTORY.md
lists every field with its rule and reset value. -/

namespace Sys2Proof.Machine

/-- STATUS.ERR, the ten codes of spec/60_exceptions.md R190 in code order. Codes 10–15 are "reserved and never
produced": they have no constructor. -/
inductive ErrCode where
  | ok | illegal | noCalc | badWidth | tableNarrow | lenRange | nameRange | notFound | indexRange | checkMismatch
  deriving DecidableEq, Repr

/-- The four model faults of R196. None of them stops this model: the spec gives each one an effect, after
which the machine goes on, so `step` records them in `State.faults` and answers a next state; no step answers
`Outcome.fault`. A claim about the block takes "FAULTS = ∅ at the end" as a premise (R196). -/
inductive Fault where
  /-- Recorded by a well-formed host write while BUSY = 1 (R228). Safe: the spec defines the effect. -/
  | haz
  /-- Recorded by a host access error (R66). Safe: the spec defines the effect. -/
  | aerr
  /-- Recorded by LOOKUP, CALC, CALCT or CALCD that needs an unwritten NAME or BUF byte (R197). Safe: the
  hardware computes on whatever the RAM holds, and the model gives no result. -/
  | uninit
  /-- Recorded at reset when CATALOG is not well-formed (R222). The machine goes on (assumption log 6): unsafe
  for a claim that leaves out the premise FAULTS = ∅. -/
  | badcat
  deriving DecidableEq, Repr

/-- Why a step may have no meaning. No arm of exec uses it: every command has its meaning. -/
inductive Refusal where
  /-- Raised by exec's arm of a command that has no meaning yet. Safe: nothing is said of the command. -/
  | notModelled (mnemonic : String)
  deriving DecidableEq, Repr

/-- FAULTS, "a set drawn from {HAZ, AERR, UNINIT, BADCAT}" (R44): one membership bit for each. -/
structure FaultSet where
  haz : Bool
  aerr : Bool
  uninit : Bool
  badcat : Bool
  deriving DecidableEq, Repr

/-- The staging registers P_* (R31–R33). P_FLAGS stores its two defined bits only (R33). -/
structure Staging where
  /-- P_WIDTH -/
  width : Word
  /-- P_POLY -/
  poly : Word
  /-- P_INIT -/
  init : Word
  /-- P_XOROUT -/
  xorOut : Word
  /-- P_CHECK -/
  check : Word
  /-- P_FLAGS.REFIN -/
  refIn : Bool
  /-- P_FLAGS.REFOUT -/
  refOut : Bool
  deriving DecidableEq, Repr

/-- The active calculator: the A_* registers, the fields of A_FLAGS, and TABLE (R35–R38). -/
structure Calculator where
  /-- A_WIDTH -/
  width : Word
  /-- A_POLY -/
  poly : Word
  /-- A_INIT -/
  init : Word
  /-- A_XOROUT -/
  xorOut : Word
  /-- A_CHECK -/
  check : Word
  /-- A_MASK -/
  mask : Word
  /-- A_HIGHBIT -/
  highBit : Word
  /-- A_FLAGS.REFIN -/
  refIn : Bool
  /-- A_FLAGS.REFOUT -/
  refOut : Bool
  /-- A_FLAGS.VALID -/
  valid : Bool
  /-- A_FLAGS.TVALID -/
  tvalid : Bool
  /-- A_FLAGS.INDEX -/
  index : BitVec 8
  /-- TABLE[0..255] -/
  table : Table
  deriving DecidableEq, Repr

/-- The byte memories BUF, NAME and ONAME (R41), as one list of (host address, byte) over the address map of
R60. A listed NAME or BUF byte is one whose `written` flag is set (R42). The canonical form and what an
unlisted address reads as are in Machine/Ops.lean. -/
abbrev Memory := List Host.Cell

/-- One step of a run (R224, R227): a reset, a turn of the ENGINE, or one host transaction (R61). -/
inductive Event where
  | reset
  | engine
  | read (a n : Nat)
  | write (a n : Nat) (v : Word)
  deriving DecidableEq, Repr

/-- The whole state. The first group is the record of R45 with its configuration; the second is the HOST
agent's position and observation (R21, R227) and the counter of free draws. -/
structure State where
  /-- BUF_SIZE, NAME_MAX and the CATALOG ROM (R6, R43): read-only. -/
  cfg : Config
  /-- CMD (R23) -/
  cmd : Word
  /-- STATUS.BUSY (R24) -/
  busy : Bool
  /-- STATUS.HAZ (R24) -/
  haz : Bool
  /-- STATUS.AERR (R24) -/
  aerr : Bool
  /-- STATUS.ERR (R24) -/
  err : ErrCode
  /-- RESULT (R25) -/
  result : Word
  /-- OPA (R26) -/
  opa : Word
  /-- LEN (R27) -/
  len : Word
  /-- NAME_LEN (R28) -/
  nameLen : Word
  /-- ONAME_LEN (R29) -/
  onameLen : Word
  /-- P_WIDTH … P_CHECK (R31–R33) -/
  staging : Staging
  /-- A_WIDTH … A_HIGHBIT, A_FLAGS, TABLE (R35–R38) -/
  act : Calculator
  /-- BUF, NAME, ONAME (R41) -/
  mem : Memory
  /-- FAULTS (R44), model-only -/
  faults : FaultSet
  /-- The HOST program and the interleaving R224 leaves open: the steps still to come, next first. -/
  events : List Event
  /-- The values the HOST has read, oldest first: the observation of a run (R227). -/
  reads : List Word
  /-- The HOST has issued a command and has not yet read STATUS with BUSY = 0 (R73): model-only (assumption log 15). -/
  unseen : Bool
  /-- The model's own counter: how many free values have been drawn (assumption log 3). -/
  draws : Nat
  deriving DecidableEq, Repr

/-- FAULTS = ∅. -/
def FaultSet.empty : FaultSet := ⟨false, false, false, false⟩

/-- The staging registers after reset: all 0 (R220). -/
def Staging.reset : Staging := ⟨0, 0, 0, 0, 0, false, false⟩

/-- The active calculator after reset (R220): every register 0, every flag 0, INDEX = 0xFF. TABLE is
"unspecified" and unreadable: this model's 0 is a DESIGN CHOICE (assumption log 4). -/
def Calculator.reset : Calculator :=
  ⟨0, 0, 0, 0, 0, 0, 0, false, false, false, false, 0xFF, Vector.replicate tableEntries 0⟩

/-- The state after a reset of an instance (R220), with the check of R222: FAULTS is empty, or {BADCAT} if
CATALOG is not well-formed. No byte of BUF or NAME is written and every ONAME byte is 0: nothing is listed. -/
def State.resetOf (cfg : Config) : State where
  cfg := cfg
  cmd := 0
  busy := false
  haz := false
  aerr := false
  err := .ok
  result := 0
  opa := 0
  len := 0
  nameLen := 0
  onameLen := 0
  staging := Staging.reset
  act := Calculator.reset
  mem := []
  faults := ⟨false, false, false, !catalogWf cfg⟩
  events := []
  reads := []
  unseen := false
  draws := 0

/-- The machine right after reset, with the default parameters of R6. -/
def State.reset : State := State.resetOf defaultConfig

end Sys2Proof.Machine
end

