-- ==== Sys2Proof/Machine/Ops.lean ====
section
/-! DEFINITION. The shared operations: the byte memories and their canonical form (spec/20_memory.md R60, R64,
spec/10_state.md R41, R42), completing a command, `raise Err` and `raise Fault` (spec/60_exceptions.md R191,
R197), and Construct (spec/42_construct_table.md R132). Errors here are not traps: nothing is saved and no
handler is entered (R192), so there is no exception entry and no return from one. -/

namespace Sys2Proof.Machine

/-! ### Byte memory -/

/-- What an address that is not listed reads as: an ONAME byte is 0 (its reset value, R41), any other byte has
no value: its `written` flag is clear (R42). ONAME's window lies between its base and TABLE's (R60). -/
def Memory.unlisted (a : Nat) : Option Byte :=
  if onameBase ≤ a ∧ a < tableBase then some 0 else none

/-- The byte listed at an address. -/
def Memory.listed : Memory → Nat → Option Byte
  | [], _ => none
  | (k, b) :: m, a => if k = a then some b else Memory.listed m a

/-- The byte at an address; none = a NAME or BUF byte never written since reset (R42). -/
def Memory.read (m : Memory) (a : Nat) : Option Byte :=
  match Memory.listed m a with
  | some b => some b
  | none => Memory.unlisted a

/-- List a byte, keeping the addresses rising. -/
def Memory.insert : Memory → Nat → Byte → Memory
  | [], a, b => [(a, b)]
  | (k, c) :: m, a, b =>
    if a < k then (a, b) :: (k, c) :: m
    else if a = k then (a, b) :: m
    else (k, c) :: Memory.insert m a b

/-- Store a byte. Storing what an unlisted address reads as removes the entry. -/
def Memory.write (m : Memory) (a : Nat) (b : Byte) : Memory :=
  if Memory.unlisted a = some b then m.filter (fun c => c.1 ≠ a) else Memory.insert m a b

/-- Store bytes at consecutive addresses. -/
def Memory.writeBytes (m : Memory) (a : Nat) : List Byte → Memory
  | [] => m
  | b :: bs => Memory.writeBytes (Memory.write m a b) (a + 1) bs

/-- The n bytes from an address, or none if one of them was never written (R64). -/
def Memory.readBytes (m : Memory) (a : Nat) : Nat → Option (List Byte)
  | 0 => some []
  | n + 1 =>
    match Memory.read m a, Memory.readBytes m (a + 1) n with
    | some b, some bs => some (b :: bs)
    | _, _ => none

/-- Addresses strictly rising. -/
def Memory.rising : Memory → Bool
  | [] => true
  | [_] => true
  | (a, _) :: (b, y) :: m => decide (a < b) && Memory.rising ((b, y) :: m)

/-- The canonical form: addresses strictly rising, and no entry equal to what its address reads as unlisted. -/
def Memory.wf (m : Memory) : Bool :=
  Memory.rising m && m.all fun c => decide (Memory.unlisted c.1 ≠ some c.2)

/-- `MemRead(addr, 1)` of the engine, and the value of a byte to a host read (R64). -/
def memRead (s : State) (a : Nat) : Option Byte := s.mem.read a

/-- `MemWrite(addr, 1, v)`, and a host write of one byte (R63, R64). -/
def memWrite (s : State) (a : Nat) (b : Byte) : State := { s with mem := s.mem.write a b }

/-! ### Faults, errors, completion -/

/-- Membership in FAULTS. -/
def FaultSet.has (f : FaultSet) : Fault → Bool
  | .haz => f.haz
  | .aerr => f.aerr
  | .uninit => f.uninit
  | .badcat => f.badcat

/-- "A fault is added and never removed, except by reset" (R44). -/
def FaultSet.add (f : FaultSet) : Fault → FaultSet
  | .haz => { f with haz := true }
  | .aerr => { f with aerr := true }
  | .uninit => { f with uninit := true }
  | .badcat => { f with badcat := true }

/-- Add a fault to FAULTS. -/
def recordFault (k : Fault) (s : State) : State := { s with faults := s.faults.add k }

/-- A command completes: it sets ERR, and BUSY <- 0 (R191, R225). -/
def complete (code : ErrCode) (s : State) : State := { s with err := code, busy := false }

/-- What one command or step answers. -/
abbrev Out := Host.Outcome State Fault Refusal

/-- `raise Err(code)` (R191): the command stops here with this ERR, what it wrote before stands, and it
completes. -/
def raiseErr (code : ErrCode) (s : State) : Out := .next (complete code s)

/-- `raise Fault(kind)` inside a command (R197): the fault is recorded, BUSY <- 0, ERR is left as it was, and
nothing else is written. -/
def raiseFault (k : Fault) (s : State) : Out := .next { recordFault k s with busy := false }

/-! ### The calculator -/

/-- The parameters a calculation reads from the active calculator. -/
def Calculator.params (c : Calculator) : CrcParams := ⟨c.width.toNat, c.poly, c.init, c.xorOut, c.refIn, c.refOut⟩

/-- "VALID <- 0; TVALID <- 0", and no other field: a failed CFG or LOOKUP (R130, R160). -/
def clearValid (s : State) : State := { s with act := { s.act with valid := false, tvalid := false } }

/-- `Construct(w, poly, init, xo, ri, ro, chk, idx)` (R132), for 1 ≤ w ≤ 64. For w ≤ 7 the old TABLE entries
stay in place (R38). -/
def construct (w : Nat) (poly init xo : Word) (ri ro : Bool) (chk : Word) (idx : BitVec 8) (s : State) : State :=
  { s with act :=
    { width := BitVec.ofNat 64 w
      mask := mask w
      highBit := highBit w
      poly := poly &&& mask w
      init := init &&& mask w
      xorOut := xo &&& mask w
      check := chk &&& mask w
      refIn := ri
      refOut := ro
      index := idx
      table := if w > tableThreshold then buildTable w (poly &&& mask w) ri else s.act.table
      tvalid := decide (w > tableThreshold)
      valid := true } }

end Sys2Proof.Machine
end

