-- ==== Sys2Proof/Machine/Operands.lean ====
section
/-! DEFINITION. The implicit operands of the commands (spec/30_encoding.md R91): the message in BUF, the name in
NAME, and the catalogue entry a name or an index selects. The explicit operands IDX and W are the fields of the
command word, read as unsigned numbers by the decoder. -/

namespace Sys2Proof.Machine

/-- LEN > BUF_SIZE, on the whole 64-bit value of LEN (R27). -/
def lenOutOfRange (s : State) : Bool := decide (s.cfg.bufSize < s.len.toNat)

/-- `[MemRead(0x100000 + i, 1) for i in 0..LEN-1]`; none if a byte was never written (R141, R151, R180). -/
def messageBytes (s : State) : Option (List Byte) := s.mem.readBytes bufBase s.len.toNat

/-- NAME_LEN > NAME_MAX, on the whole 64-bit value of NAME_LEN (R160). -/
def nameOutOfRange (s : State) : Bool := decide (s.cfg.nameMax < s.nameLen.toNat)

/-- `[MemRead(0x1000 + i, 1) for i in 0..NAME_LEN-1]`; none if a byte was never written (R160). -/
def queryBytes (s : State) : Option Name := s.mem.readBytes nameBase s.nameLen.toNat

/-- The search of R160: the first record, counting from index k, that has an alias equal to the query. -/
def findVariant (q : Name) : Nat → List Variant → Option (Nat × Variant)
  | _, [] => none
  | k, v :: vs => if v.names.any (fun a => nameEq a q) then some (k, v) else findVariant q (k + 1) vs

/-- The bytes ENUM writes into ONAME (R162): s[i] for i < len(s), else 0, for i in 0..NAME_MAX-1. -/
def paddedName (nameMax : Nat) (s : Name) : List Byte := (List.range nameMax).map fun i => s.getD i 0

end Sys2Proof.Machine
end

