-- ==== Sys2Proof/Machine/Calculation.lean ====
section
/-! DEFINITION. CALC (spec/47_dispatch.md R180), CALCT (spec/43_table_calc.md R141) and CALCD
(spec/44_direct.md R151). -/

namespace Sys2Proof.Machine

/-- The end the three commands share: LEN_RANGE, then UNINIT, then RESULT <- the engine's CRC of
BUF[0..LEN-1] (R141, R151, R180). -/
def calculateMessage (engine : List Byte → Word) (s : State) : Out :=
  if lenOutOfRange s then raiseErr .lenRange s
  else
    match messageBytes s with
    | none => raiseFault .uninit s
    | some bytes => .next (complete .ok { s with result := engine bytes })

/-- CALC (R180): errors in the order NO_CALC, LEN_RANGE, UNINIT. -/
def execCalc (s : State) : Out :=
  if s.act.valid = false then raiseErr .noCalc s
  else calculateMessage (dispatchCrc s.act.params s.act.table) s

/-- CALCT (R141): errors in the order NO_CALC, TABLE_NARROW, LEN_RANGE, UNINIT. -/
def execCalct (s : State) : Out :=
  if s.act.valid = false then raiseErr .noCalc s
  else if s.act.width.toNat ≤ tableThreshold then raiseErr .tableNarrow s
  else calculateMessage (tableCrc s.act.params s.act.table) s

/-- CALCD (R151): errors in the order NO_CALC, LEN_RANGE, UNINIT. TABLE is not read. -/
def execCalcd (s : State) : Out :=
  if s.act.valid = false then raiseErr .noCalc s
  else calculateMessage (directCrc s.act.params) s

end Sys2Proof.Machine
end

