-- ==== Sys2Proof/Machine/Construction.lean ====
section
/-! DEFINITION. CFG (spec/42_construct_table.md R130). -/

namespace Sys2Proof.Machine

/-- CFG (R130). P_WIDTH is compared as a whole 64-bit value (R31). -/
def execCfg (s : State) : Out :=
  let w := s.staging.width.toNat
  if w < wMin ∨ wMax < w then raiseErr .badWidth (clearValid s)
  else
    let p := s.staging
    .next (complete .ok (construct w p.poly p.init p.xorOut p.refIn p.refOut p.check 0xFF s))

end Sys2Proof.Machine
end

