-- ==== Sys2Proof/Machine/Reflection.lean ====
section
/-! DEFINITION. REFLECT (spec/40_reflect.md R111). -/

namespace Sys2Proof.Machine

/-- REFLECT w (R111): it needs no calculator and reads no memory. -/
def execReflect (w : Nat) (s : State) : Out :=
  if w < wMin ∨ wMax < w then raiseErr .badWidth s
  else .next (complete .ok { s with result := reflect s.opa w })

end Sys2Proof.Machine
end

