-- ==== Sys2Proof/Machine/Registry.lean ====
section
/-! DEFINITION. LOOKUP and ENUM (spec/45_registry.md R160, R162). -/

namespace Sys2Proof.Machine

/-- LOOKUP (R160): errors in the order NAME_RANGE, UNINIT, NOT_FOUND (R193). -/
def execLookup (s : State) : Out :=
  if nameOutOfRange s then raiseErr .nameRange (clearValid s)
  else
    match queryBytes s with
    | none => raiseFault .uninit s
    | some q =>
      match findVariant q 0 s.cfg.catalog with
      | none => raiseErr .notFound (clearValid s)
      | some (k, v) =>
        .next (complete .ok
          (construct v.width v.poly v.init v.xorOut v.refIn v.refOut v.checkValue (BitVec.ofNat 8 k) s))

/-- ENUM k (R162): the canonical name, zero-filled to NAME_MAX bytes, and its length. -/
def execEnum (k : Nat) (s : State) : Out :=
  match s.cfg.catalog[k]? with
  | none => raiseErr .indexRange s
  | some v =>
    .next (complete .ok
      { s with
        mem := s.mem.writeBytes onameBase (paddedName s.cfg.nameMax v.canonicalName)
        onameLen := BitVec.ofNat 64 v.canonicalName.length })

end Sys2Proof.Machine
end

