-- ==== Sys2Proof/Machine/SelfTest.lean ====
section
/-! DEFINITION. CHECK (spec/46_selftest.md R170). -/

namespace Sys2Proof.Machine

/-- CHECK (R170): RESULT is written on both outcomes. Neither BUF nor LEN is read. -/
def execCheck (s : State) : Out :=
  if s.act.valid = false then raiseErr .noCalc s
  else
    let r := dispatchCrc s.act.params s.act.table kat
    .next (complete (if r = s.act.check then .ok else .checkMismatch) { s with result := r })

end Sys2Proof.Machine
end

