-- ==== Sys2Proof/Machine/Dispatch.lean ====
section
/-! DEFINITION. What the ENGINE performs for each command (spec/70_reset_and_hazards.md R225), completion included. -/

namespace Sys2Proof.Machine

def exec (i : Instr) (s : State) : Host.Outcome State Fault Refusal :=
  match i with
  | .cfg => Sys2Proof.Machine.execCfg s
  | .lookup => Sys2Proof.Machine.execLookup s
  | .enum idx => Sys2Proof.Machine.execEnum idx s
  | .calculate => Sys2Proof.Machine.execCalc s
  | .calct => Sys2Proof.Machine.execCalct s
  | .calcd => Sys2Proof.Machine.execCalcd s
  | .reflect w => Sys2Proof.Machine.execReflect w s
  | .check => Sys2Proof.Machine.execCheck s

end Sys2Proof.Machine
end

