-- ==== Sys2Proof/Machine/Flags.lean ====
section
/-! DEFINITION. The packed registers: STATUS (spec/10_state.md R24), A_FLAGS (R36), P_FLAGS (R33) and CAPS (R30),
each as the concatenation of its fields, bit 63 first (R7: `a ++ b` places a above b). -/

namespace Sys2Proof.Machine

/-- The codes of R190. -/
def errNumber : ErrCode → BitVec 4
  | .ok => 0
  | .illegal => 1
  | .noCalc => 2
  | .badWidth => 3
  | .tableNarrow => 4
  | .lenRange => 5
  | .nameRange => 6
  | .notFound => 7
  | .indexRange => 8
  | .checkMismatch => 9

/-- STATUS (R24): 63:12 reserved, 11:8 ERR, 7:3 reserved, 2 AERR, 1 HAZ, 0 BUSY. -/
def statusWord (s : State) : Word :=
  0#52 ++ errNumber s.err ++ 0#5 ++ BitVec.ofBool s.aerr ++ BitVec.ofBool s.haz ++ BitVec.ofBool s.busy

/-- A_FLAGS (R36): 63:16 reserved, 15:8 INDEX, 7:4 reserved, 3 TVALID, 2 VALID, 1 REFOUT, 0 REFIN. -/
def aFlagsWord (c : Calculator) : Word :=
  0#48 ++ c.index ++ 0#4 ++ BitVec.ofBool c.tvalid ++ BitVec.ofBool c.valid ++ BitVec.ofBool c.refOut ++
    BitVec.ofBool c.refIn

/-- P_FLAGS (R33): 63:2 read as 0, 1 REFOUT, 0 REFIN. -/
def pFlagsWord (p : Staging) : Word := 0#62 ++ BitVec.ofBool p.refOut ++ BitVec.ofBool p.refIn

/-- A write of P_FLAGS keeps bits 1 and 0 and discards bits 63:2 (R33). -/
def setPFlags (p : Staging) (v : Word) : Staging := { p with refIn := v.getLsbD 0, refOut := v.getLsbD 1 }

/-- CAPS (R30): 63:56 reserved, 55:48 REV = 1, 47:40 XLEN = 64, 39:16 BUF_SIZE, 15:8 NAME_MAX, 7:0 CAT_COUNT. -/
def capsWord (c : Config) : Word :=
  0#8 ++ 1#8 ++ 64#8 ++ BitVec.ofNat 24 c.bufSize ++ BitVec.ofNat 8 c.nameMax ++ BitVec.ofNat 8 c.catalog.length

end Sys2Proof.Machine
end

