-- ==== Sys2Proof/Machine/Registers.lean ====
section
/-! DEFINITION. The register map (spec/10_state.md R22): names, offsets, host access rights, and what a host read
returns and a host write stores (R23–R37). -/

namespace Sys2Proof.Machine

/-- The 22 registers of R22. -/
inductive Reg where
  | cmd | status | result | opa | len | nameLen | onameLen | caps
  | pWidth | pPoly | pInit | pXorout | pFlags | pCheck
  | aWidth | aPoly | aInit | aXorout | aFlags | aCheck | aMask | aHighbit
  deriving DecidableEq, Repr

/-- The host access right of a register (R22). -/
inductive Right where
  /-- Read and write. -/
  | rw
  /-- Read-only: a write is an access error. -/
  | ro
  /-- Written to issue a command. -/
  | cmd
  deriving DecidableEq, Repr

/-- All registers, in the order of R22. -/
def allRegs : List Reg :=
  [.cmd, .status, .result, .opa, .len, .nameLen, .onameLen, .caps,
   .pWidth, .pPoly, .pInit, .pXorout, .pFlags, .pCheck,
   .aWidth, .aPoly, .aInit, .aXorout, .aFlags, .aCheck, .aMask, .aHighbit]

/-- The offset of a register (R22). -/
def regOffset : Reg → Nat
  | .cmd => 0x00
  | .status => 0x08
  | .result => 0x10
  | .opa => 0x18
  | .len => 0x20
  | .nameLen => 0x28
  | .onameLen => 0x30
  | .caps => 0x38
  | .pWidth => 0x40
  | .pPoly => 0x48
  | .pInit => 0x50
  | .pXorout => 0x58
  | .pFlags => 0x60
  | .pCheck => 0x68
  | .aWidth => 0x80
  | .aPoly => 0x88
  | .aInit => 0x90
  | .aXorout => 0x98
  | .aFlags => 0xA0
  | .aCheck => 0xA8
  | .aMask => 0xB0
  | .aHighbit => 0xB8

/-- The host access right of a register (R22). -/
def regRight : Reg → Right
  | .cmd => .cmd
  | .opa => .rw
  | .len => .rw
  | .nameLen => .rw
  | .pWidth => .rw
  | .pPoly => .rw
  | .pInit => .rw
  | .pXorout => .rw
  | .pFlags => .rw
  | .pCheck => .rw
  | .status => .ro
  | .result => .ro
  | .onameLen => .ro
  | .caps => .ro
  | .aWidth => .ro
  | .aPoly => .ro
  | .aInit => .ro
  | .aXorout => .ro
  | .aFlags => .ro
  | .aCheck => .ro
  | .aMask => .ro
  | .aHighbit => .ro

/-- The register at an offset; none at a reserved or misaligned offset (R22, R62). -/
def regAt (a : Nat) : Option Reg := allRegs.find? fun r => regOffset r == a

/-- The registers a command's outcome appears in, which R73 lists: RESULT, ONAME_LEN and every A_* register. -/
def outputReg : Reg → Bool
  | .result => true
  | .onameLen => true
  | .aWidth => true
  | .aPoly => true
  | .aInit => true
  | .aXorout => true
  | .aFlags => true
  | .aCheck => true
  | .aMask => true
  | .aHighbit => true
  | .cmd => false
  | .status => false
  | .opa => false
  | .len => false
  | .nameLen => false
  | .caps => false
  | .pWidth => false
  | .pPoly => false
  | .pInit => false
  | .pXorout => false
  | .pFlags => false
  | .pCheck => false

/-- The value of a register, packed as its rule says (R23–R37, R63). -/
def readReg (r : Reg) (s : State) : Word :=
  match r with
  | .cmd => s.cmd
  | .status => statusWord s
  | .result => s.result
  | .opa => s.opa
  | .len => s.len
  | .nameLen => s.nameLen
  | .onameLen => s.onameLen
  | .caps => capsWord s.cfg
  | .pWidth => s.staging.width
  | .pPoly => s.staging.poly
  | .pInit => s.staging.init
  | .pXorout => s.staging.xorOut
  | .pFlags => pFlagsWord s.staging
  | .pCheck => s.staging.check
  | .aWidth => s.act.width
  | .aPoly => s.act.poly
  | .aInit => s.act.init
  | .aXorout => s.act.xorOut
  | .aFlags => aFlagsWord s.act
  | .aCheck => s.act.check
  | .aMask => s.act.mask
  | .aHighbit => s.act.highBit

/-- A host write of a register that may be written (R63): a write of CMD issues a command, CMD <- v and
BUSY <- 1 (R23), and the HOST has yet to see it end (R73); an RW register stores v as its rule says. No write reaches a read-only register (R66). -/
def writeReg (r : Reg) (v : Word) (s : State) : State :=
  match r with
  | .cmd => { s with cmd := v, busy := true, unseen := true }
  | .opa => { s with opa := v }
  | .len => { s with len := v }
  | .nameLen => { s with nameLen := v }
  | .pWidth => { s with staging := { s.staging with width := v } }
  | .pPoly => { s with staging := { s.staging with poly := v } }
  | .pInit => { s with staging := { s.staging with init := v } }
  | .pXorout => { s with staging := { s.staging with xorOut := v } }
  | .pFlags => { s with staging := setPFlags s.staging v }
  | .pCheck => { s with staging := { s.staging with check := v } }
  | .status => s
  | .result => s
  | .onameLen => s
  | .caps => s
  | .aWidth => s
  | .aPoly => s
  | .aInit => s
  | .aXorout => s
  | .aFlags => s
  | .aCheck => s
  | .aMask => s
  | .aHighbit => s

end Sys2Proof.Machine
end

