-- ==== Sys2Proof/Machine/HostPort.lean ====
section
/-! DEFINITION. The HOST's steps (spec/70_reset_and_hazards.md R226–R229): the address map and the admission
check of an access (spec/20_memory.md R60, R62), its effect when idle (R63), when busy (R228, R229) and when it is
not well-formed (R66); and the reset of the block (R220–R222). -/

namespace Sys2Proof.Machine

/-- What an access of the host address space reaches (R60). -/
inductive Target where
  | reg (r : Reg)
  | nameByte (i : Nat)
  | onameByte (i : Nat)
  | tableEntry (i : Byte)
  | bufByte (i : Nat)
  deriving DecidableEq, Repr

/-- What an n-byte access at address a reaches, by the address map R60 and the widths and alignments of R62 and
R70; none when it is unmapped, misaligned or of a wrong width. -/
def resolve (cfg : Config) (a n : Nat) : Option Target :=
  if n = 8 then
    if tableBase ≤ a ∧ a < tableBase + 8 * tableEntries then
      if a % 8 = 0 then some (.tableEntry (BitVec.ofNat 8 ((a - tableBase) / 8))) else none
    else (regAt a).map .reg
  else if n = 1 then
    if nameBase ≤ a ∧ a < nameBase + cfg.nameMax then some (.nameByte (a - nameBase))
    else if onameBase ≤ a ∧ a < onameBase + cfg.nameMax then some (.onameByte (a - onameBase))
    else if bufBase ≤ a ∧ a < bufBase + cfg.bufSize then some (.bufByte (a - bufBase))
    else none
  else none

/-- The host may read it (R62): TABLE only while TVALID = 1 (R67), everything else always. -/
def readable (s : State) : Target → Bool
  | .tableEntry _ => s.act.tvalid
  | .reg _ => true
  | .nameByte _ => true
  | .onameByte _ => true
  | .bufByte _ => true

/-- The host may write it (R62): registers with right RW or CMD, NAME and BUF. -/
def writable : Target → Bool
  | .reg r => decide (regRight r ≠ .ro)
  | .nameByte _ => true
  | .bufByte _ => true
  | .onameByte _ => false
  | .tableEntry _ => false

/-- The target of a well-formed read (R62). -/
def readTarget (s : State) (a n : Nat) : Option Target := (resolve s.cfg a n).filter (readable s)

/-- The target of a well-formed write (R62). -/
def writeTarget (s : State) (a n : Nat) : Option Target := (resolve s.cfg a n).filter writable

/-- The host receives a value (R226). -/
def observe (v : Word) (s : State) : State := { s with reads := s.reads ++ [v] }

/-- "any value" of 64 bits: a free draw, a fresh one each time (R229). -/
def drawWord (s : State) : State := observe (Config.freeDraw s.draws) { s with draws := s.draws + 1 }

/-- "any byte", zero-extended: a free draw, a fresh one each time (R63, R229). -/
def drawByte (s : State) : State :=
  observe (((Config.freeDraw s.draws).setWidth 8).setWidth 64) { s with draws := s.draws + 1 }

/-- An access error (R66): nothing is stored, AERR is set and recorded. -/
def accessError (s : State) : State := { recordFault .aerr s with aerr := true }

/-- A write while busy (R228): nothing is stored, HAZ is set and recorded. -/
def hazard (s : State) : State := { recordFault .haz s with haz := true }

/-- A host read of one stored byte (R63): the byte zero-extended, or a free draw if it was never written. -/
def readStoredByte (a : Nat) (s : State) : State :=
  match memRead s a with
  | some b => observe (b.setWidth 64) s
  | none => drawByte s

/-- A read that returns what the target holds (R63). -/
def readStored (t : Target) (s : State) : State :=
  match t with
  | .reg r => observe (readReg r s) s
  | .nameByte i => readStoredByte (nameBase + i) s
  | .onameByte i => readStoredByte (onameBase + i) s
  | .tableEntry i => observe (tableAt s.act.table i) s
  | .bufByte i => readStoredByte (bufBase + i) s

/-- A read that returns any value of the access's width. -/
def drawAt (t : Target) (s : State) : State :=
  match t with
  | .reg _ => drawWord s
  | .tableEntry _ => drawWord s
  | .nameByte _ => drawByte s
  | .onameByte _ => drawByte s
  | .bufByte _ => drawByte s

/-- Where a command's outcome appears (R73): RESULT, ONAME, ONAME_LEN, A_* and TABLE. -/
def commandOutput : Target → Bool
  | .reg r => outputReg r
  | .onameByte _ => true
  | .tableEntry _ => true
  | .nameByte _ => false
  | .bufByte _ => false

/-- A well-formed read with BUSY = 0. A command's outcome is unspecified until the HOST has read STATUS with
BUSY = 0 (R73, R229); every other read returns the stored value (R63), and a read of STATUS shows BUSY = 0. -/
def readIdle (t : Target) (s : State) : State :=
  if s.unseen && commandOutput t then drawAt t s
  else if t = .reg .status then { readStored t s with unseen := false }
  else readStored t s

/-- A well-formed read with BUSY = 1 (R229): STATUS and CAPS read as always, everything else any value. -/
def readBusy (t : Target) (s : State) : State :=
  if t = .reg .status ∨ t = .reg .caps then readStored t s else drawAt t s

/-- A well-formed write with BUSY = 0 (R63): a byte write stores v[7:0]. No write reaches ONAME or TABLE. -/
def store (t : Target) (v : Word) (s : State) : State :=
  match t with
  | .reg r => writeReg r v s
  | .nameByte i => memWrite s (nameBase + i) (v.setWidth 8)
  | .bufByte i => memWrite s (bufBase + i) (v.setWidth 8)
  | .onameByte _ => s
  | .tableEntry _ => s

/-- `HostRead(a, n)` (R226). A read that is not well-formed returns 0, whatever BUSY is (R66). -/
def hostRead (a n : Nat) (s : State) : State :=
  match readTarget s a n with
  | none => observe 0 (accessError s)
  | some t => if s.busy then readBusy t s else readIdle t s

/-- `HostWrite(a, n, v)` (R226). -/
def hostWrite (a n : Nat) (v : Word) (s : State) : State :=
  match writeTarget s a n with
  | none => accessError s
  | some t => if s.busy then hazard s else store t v s

/-- A reset of the block (R220, R221): a pending command is abandoned. The configuration stays, and so do the
HOST's program, what it has read, and the count of draws: none of them is the block's (R12, R21). -/
def resetBlock (s : State) : State :=
  { State.resetOf s.cfg with events := s.events, reads := s.reads, draws := s.draws }

end Sys2Proof.Machine
end

