-- ==== Sys2Proof/Machine/Engine.lean ====
section
/-! DEFINITION. The ENGINE step (spec/70_reset_and_hazards.md R225) and the whole-machine step on an event (R227). -/

namespace Sys2Proof.Machine

/-- `EngineStep` (R225): decode CMD and perform the command; an illegal word completes with ERR = ILLEGAL and
changes nothing else (R94). -/
def engineStep (s : State) : Out :=
  match decode s.cmd with
  | .illegal _ => raiseErr .illegal s
  | .command i => exec i s

/-- `Step(s, e)` of R227. An ENGINE turn with BUSY = 0 changes nothing: the ENGINE step is not enabled. -/
def applyEvent (e : Event) (s : State) : Out :=
  match e with
  | .reset => .next (resetBlock s)
  | .engine => if s.busy then engineStep s else .next s
  | .read a n => .next (hostRead a n s)
  | .write a n v => .next (hostWrite a n v s)

end Sys2Proof.Machine
end

