-- ==== Sys2Proof/Machine/Step.lean ====
section
/-! DEFINITION. One step of the machine (spec/70_reset_and_hazards.md R224, R227, R233, R234). Which step comes
next is not determined by the block: it is the plain data `events` of State (assumption log 2). -/

namespace Sys2Proof.Machine

/-- One step: the next event takes place (R227). When the HOST has no transaction left, the ENGINE takes its turn:
a pending command is still owed its step (R233, R234), and with none pending the run is over and nothing
changes. -/
def step (s : State) : Host.Outcome State Fault Refusal :=
  match s.events with
  | [] => applyEvent .engine s
  | e :: rest => applyEvent e { s with events := rest }

/-- `s` with a command word pending and the ENGINE's turn next, so that the next step performs it: CMD holds the
word and BUSY = 1, as after the HOST's write of CMD (R23). There is no program counter and no fetch from memory (R21). -/
def State.withFetchWord (s : State) (nbits w : Nat) : State :=
  { s with cmd := BitVec.ofNat 64 (w % 2 ^ nbits), busy := true, unseen := true, events := .engine :: s.events }

end Sys2Proof.Machine
end

