-- ==== Sys2Proof/Safety.lean ====
section
/-! DEFINITION. What a safe state of GUS-CRC is: the invariant of the active calculator (spec/10_state.md R39),
the canonical form of the memories, the fault record (R44), and a run without a fault (spec/60_exceptions.md R196). -/

namespace Sys2Proof.Machine

/-- "FAULTS = ∅", the premise of a claim about the block (R196). -/
abbrev FaultFree (s : State) : Prop := s.faults = FaultSet.empty

/-- The invariant of the active calculator (R39), with w = A_WIDTH. -/
abbrev CalcInv (c : Calculator) : Prop :=
  (c.valid = true →
    (1 ≤ c.width.toNat ∧ c.width.toNat ≤ 64) ∧
    (c.mask = mask c.width.toNat ∧ c.highBit = highBit c.width.toNat) ∧
    (c.poly.toNat ≤ c.mask.toNat ∧ c.init.toNat ≤ c.mask.toNat ∧
      c.xorOut.toNat ≤ c.mask.toNat ∧ c.check.toNat ≤ c.mask.toNat) ∧
    (c.tvalid = true ↔ 7 < c.width.toNat) ∧
    (c.tvalid = true → c.table = buildTable c.width.toNat c.poly c.refIn)) ∧
  (c.valid = false → c.tvalid = false)

/-- The address is in one of the three byte windows of the instance (R60). -/
def byteWindow (cfg : Config) (a : Nat) : Bool :=
  decide (nameBase ≤ a ∧ a < nameBase + cfg.nameMax) ||
    decide (onameBase ≤ a ∧ a < onameBase + cfg.nameMax) ||
    decide (bufBase ≤ a ∧ a < bufBase + cfg.bufSize)

/-- The memories are in canonical form, and nothing is stored outside NAME, ONAME and BUF. -/
abbrev MemInv (cfg : Config) (m : Memory) : Prop := m.wf = true ∧ m.all (fun c => byteWindow cfg c.1) = true

/-- HAZ and AERR of FAULTS mirror the sticky STATUS bits (R44), and BADCAT says whether CATALOG is ill-formed
(R222). -/
abbrev FaultInv (s : State) : Prop :=
  s.faults.haz = s.haz ∧ s.faults.aerr = s.aerr ∧ s.faults.badcat = !catalogWf s.cfg

/-- INDEX tells the truth (R36): a calculator in use whose INDEX is not 0xFF has the parameters and the check value of
that catalogue entry. -/
abbrev IndexInv (cfg : Config) (c : Calculator) : Prop :=
  c.valid = true → c.index ≠ 0xFF →
    (cfg.catalog[c.index.toNat]?).map (fun v => (variantParams v, v.checkValue)) = some (c.params, c.check)

/-- While a command is pending, the HOST has not seen it end (R73). -/
abbrev UnseenInv (s : State) : Prop := s.busy = true → s.unseen = true

/-- The invariant every step keeps, for an instance whose CATALOG is well-formed (R121; any other is refused, R222). -/
abbrev StateInv (s : State) : Prop :=
  catalogWf s.cfg = true ∧ CalcInv s.act ∧ IndexInv s.cfg s.act ∧ MemInv s.cfg s.mem ∧ FaultInv s ∧ UnseenInv s

end Sys2Proof.Machine
end

