-- ==== Sys2Proof/Certificates/Slice0/Obligations.lean ====
section
/-! DEFINITION. The statements about the model, for the provers; OBLIGATIONS.json lists them. The definitions before
them are their vocabulary. -/

open scoped Polynomial

namespace Sys2Proof.Statements

open Sys2Proof.Machine

/-- The ENGINE has the turn: it is the next event, or the HOST has none left. `rest` is what then remains. -/
def EngineTurn (s : State) (rest : List Event) : Prop :=
  (s.events = [] ∧ rest = []) ∨ s.events = Event.engine :: rest

/-- The given bytes stand in memory at consecutive addresses from a base, each of them written. -/
def HoldsBytes (s : State) (base : Nat) (bytes : List Byte) : Prop :=
  ∀ i, i < bytes.length → memRead s (base + i) = bytes[i]?

/-- Some byte of the n from a base was never written. -/
def SomeUnwritten (s : State) (base n : Nat) : Prop := ∃ i, i < n ∧ memRead s (base + i) = none

/-- Every byte of memory reads as before. -/
def MemoryUnchanged (s t : State) : Prop := ∀ a, memRead t a = memRead s a

/-- A calculator constructed from parameters (R132), said in numbers: width, 2^w - 1 in A_MASK, 2^(w-1) in
A_HIGHBIT, the parameters modulo 2^w, the flags, and the table of R131 if the width is greater than 7. -/
def ConstructedFrom (c old : Calculator) (w : Nat) (poly init xo : Word) (ri ro : Bool) (chk : Word)
    (idx : BitVec 8) : Prop :=
  c.width.toNat = w ∧ c.mask.toNat = 2 ^ w - 1 ∧ c.highBit.toNat = 2 ^ (w - 1) ∧
    c.poly.toNat = poly.toNat % 2 ^ w ∧ c.init.toNat = init.toNat % 2 ^ w ∧
    c.xorOut.toNat = xo.toNat % 2 ^ w ∧ c.check.toNat = chk.toNat % 2 ^ w ∧
    c.refIn = ri ∧ c.refOut = ro ∧ c.index = idx ∧ c.valid = true ∧
    (7 < w → c.tvalid = true ∧ ∀ i : Byte, tableAt c.table i = tableEntry w c.poly ri i) ∧
    (w ≤ 7 → c.tvalid = false ∧ c.table = old.table)

/-- The calculator with VALID and TVALID cleared, every other field as it was. -/
def Cleared (c : Calculator) : Calculator := { c with valid := false, tvalid := false }

/-- The record has an alias equal to the query under NameEq. -/
def Answers (v : Variant) (q : Name) : Prop := ∃ a ∈ v.names, nameEq a q = true

/-- A w-bit value as a polynomial over GF(2). -/
noncomputable def polyOf (w : Nat) (v : Word) : (ZMod 2)[X] :=
  ∑ k ∈ Finset.range w, if v.getLsbD k then Polynomial.X ^ k else 0

/-- The message bits in the order the engine takes them (R69): bit 7 first, or bit 0 first if reflectIn. -/
def messageBits (refIn : Bool) (bytes : List Byte) : List Bool :=
  bytes.flatMap fun b => (List.range 8).map fun j => if refIn then b.getLsbD j else b.getLsbD (7 - j)

/-- A bit sequence, first bit the highest power, as a polynomial over GF(2). -/
noncomputable def bitsPoly (bits : List Bool) : (ZMod 2)[X] :=
  bits.foldl (fun p b => Polynomial.X * p + if b then 1 else 0) 0

/-- The commands that compute a CRC. -/
def isCrcCommand (i : Instr) : Bool := i == .calculate || i == .calct || i == .calcd || i == .check

/-- The registers R73 lists: RESULT, ONAME_LEN and A_*. -/
def outcomeRegs : List Reg :=
  [.result, .onameLen, .aWidth, .aPoly, .aInit, .aXorout, .aFlags, .aCheck, .aMask, .aHighbit]

/-- The codes each command may complete with (R190, column "raised by"; ILLEGAL is no decoded command's). -/
def mayRaise : Instr → List ErrCode
  | .cfg => [.ok, .badWidth]
  | .lookup => [.ok, .nameRange, .notFound]
  | .enum _ => [.ok, .indexRange]
  | .calculate => [.ok, .noCalc, .lenRange]
  | .calct => [.ok, .noCalc, .tableNarrow, .lenRange]
  | .calcd => [.ok, .noCalc, .lenRange]
  | .reflect _ => [.ok, .badWidth]
  | .check => [.ok, .noCalc, .checkMismatch]

end Sys2Proof.Statements

open Sys2Proof Sys2Proof.Machine Sys2Proof.Statements

/-! ### Reset -/

/-- R220, R222. -/
def Obligations.ResetSetsEveryField : Prop :=
  ∀ cfg : Config,
    (∀ r : Reg, readReg r (State.resetOf cfg) =
      if r = .caps then capsWord cfg else if r = .aFlags then 0xFF00 else 0) ∧
    (State.resetOf cfg).cfg = cfg ∧ (State.resetOf cfg).busy = false ∧
    (State.resetOf cfg).faults = ⟨false, false, false, !catalogWf cfg⟩ ∧
    (configWf cfg = true → ∀ i,
      (i < cfg.bufSize → memRead (State.resetOf cfg) (bufBase + i) = none) ∧
      (i < cfg.nameMax → memRead (State.resetOf cfg) (nameBase + i) = none ∧
        memRead (State.resetOf cfg) (onameBase + i) = some 0))

/-- R221. That the HOST's program, its reads and the count of draws stay is the model's choice (log 2, 3),
and so is TABLE = 0 (log 4). -/
def Obligations.ResetOverridesEverything : Prop :=
  ∀ (s : State) (rest : List Event), s.events = .reset :: rest →
    step s = .next { State.resetOf s.cfg with events := rest, reads := s.reads, draws := s.draws }

/-- The invariant holds after a reset of any instance with a well-formed CATALOG. -/
def Obligations.ResetMeetsInvariant : Prop :=
  ∀ cfg : Config, catalogWf cfg = true → StateInv (State.resetOf cfg)

/-! ### The step -/

/-- R39, R44, the truth of INDEX (R36), that a pending command's end is unseen (R73, log 15), and the canonical form of the memories (the model's own, log 5): every step
keeps them. -/
def Obligations.StepKeepsInvariant : Prop :=
  ∀ s t : State, StateInv s → step s = .next t → StateInv t

/-- Every step is total: none faults, none is refused. That a recorded model fault does not stop the machine is the
model's reading (log 6, 7). -/
def Obligations.EveryStepGoesOn : Prop := ∀ s : State, ∃ t, step s = .next t

/-- A step in which the ENGINE has the turn runs the decoded command (R225), or, with BUSY = 0, does nothing.
That an empty list of events gives the ENGINE the turn is the model's choice (log 2). -/
def Obligations.EngineTurnRunsPendingCommand : Prop :=
  ∀ (s : State) (rest : List Event), EngineTurn s rest →
    (s.busy = false → step s = .next { s with events := rest }) ∧
    (∀ i, s.busy = true → decode s.cmd = .command i → step s = exec i { s with events := rest })

/-- The host's question about one word of the opcode table: the next step performs its command.
withFetchWord is the model's stand-in for the host's write of CMD (log 12). -/
def Obligations.FetchWordRunsNext : Prop :=
  ∀ (s : State) (nbits w : Nat) (i : Instr), decodeTableWord nbits w = some i →
    step (s.withFetchWord nbits w) =
      exec i { s with cmd := BitVec.ofNat 64 (w % 2 ^ nbits), busy := true, unseen := true }

/-- R191, R225: whatever it does, a command completes, and the step ends with BUSY = 0. -/
def Obligations.EveryCommandCompletes : Prop :=
  ∀ (i : Instr) (s : State), ∃ t, exec i s = .next t ∧ t.busy = false

/-- R13: with no host transaction left, at most one step is still owed, and then nothing changes. That a finished
run stutters is the model's choice (log 2). -/
def Obligations.RunEndsAfterOneEngineStep : Prop :=
  ∀ s : State, s.events = [] → ∃ t, step s = .next t ∧ t.busy = false ∧ t.events = [] ∧ step t = .next t

/-! ### Command words -/

/-- Decoding an encoded well-formed command gives it back, with every operand at every value. -/
def Obligations.DecodeInvertsEncode : Prop :=
  ∀ i : Instr, i.wf = true → decode (encode i) = .command i

/-- A word that decodes is the encoding of what it decodes to: no command has two words. -/
def Obligations.EncodeInvertsDecode : Prop :=
  ∀ (v : Word) (i : Instr), decode v = .command i → i.wf = true ∧ encode i = v

/-- R92: a word decodes as the row with (v & mask) = match; the rows are disjoint. -/
def Obligations.OpcodeMapDecides : Prop :=
  (∀ (v : Word) (r : OpcodeRow), r ∈ opcodeRows →
    (r.hit v = true ↔ ∃ i, decode v = .command i ∧ mnemonic i = r.mnemonic)) ∧
  (∀ (v : Word) (r r' : OpcodeRow), r ∈ opcodeRows → r' ∈ opcodeRows → r.hit v = true → r'.hit v = true → r = r')

/-- R94: which words are illegal, and that performing one completes with ERR = ILLEGAL and changes nothing else. -/
def Obligations.IllegalWordCompletesWithError : Prop :=
  (∀ v : Word, (∃ why, decode v = .illegal why) ↔
    (v >>> 23 ≠ 0 ∨
      v.toNat % 256 ∉ [0x01, 0x02, 0x03, 0x10, 0x11, 0x12, 0x20, 0x30] ∨
      (v.toNat % 256 ≠ 0x03 ∧ v.toNat / 256 % 256 ≠ 0) ∨
      (v.toNat % 256 ≠ 0x20 ∧ v.toNat / 65536 % 128 ≠ 0))) ∧
  (∀ (s : State) (rest : List Event) (why : Illegal), EngineTurn s rest → s.busy = true →
    decode s.cmd = .illegal why →
    step s = .next { s with events := rest, err := .illegal, busy := false })

/-- The example words of R99. -/
def Obligations.ExampleWordsDecode : Prop :=
  decode 0x0000000000000001 = .command .cfg ∧ decode 0x0000000000003903 = .command (.enum 57) ∧
  decode 0x0000000000100020 = .command (.reflect 16) ∧ decode 0x0000000000400020 = .command (.reflect 64) ∧
  decode 0x0000000000000030 = .command .check ∧
  decode 0x0000000000000101 = .illegal .unusedField ∧ decode 0x0000000100000010 = .illegal .reservedBits

/-! ### REFLECT -/

/-- R110, R111: RESULT is the reversed w-bit field of OPA, zero above it; BAD_WIDTH outside 1..64; nothing else
is written. -/
def Obligations.ReflectCommand : Prop :=
  ∀ (s : State) (w : Nat),
    (1 ≤ w → w ≤ 64 → ∃ r : Word,
      exec (.reflect w) s = .next { s with result := r, err := .ok, busy := false } ∧
      (∀ k, k < w → r.getLsbD k = s.opa.getLsbD (w - 1 - k)) ∧ (∀ k, w ≤ k → r.getLsbD k = false)) ∧
    (¬(1 ≤ w ∧ w ≤ 64) → exec (.reflect w) s = .next { s with err := .badWidth, busy := false })

/-- The properties R112 lists. -/
def Obligations.ReflectLaws : Prop :=
  ∀ (x y : Word) (w : Nat), 1 ≤ w → w ≤ 64 →
    reflect (reflect x w) w = x &&& mask w ∧
    reflect x w = reflect (x &&& mask w) w ∧
    reflect (x ^^^ y) w = reflect x w ^^^ reflect y w ∧
    (8 ≤ w → x.toNat < 2 ^ w → reflect (x >>> 8) w = (reflect x w <<< 8) &&& mask w) ∧
    (x.toNat < 2 ^ 8 → reflect (reflect x 8) 8 = x)

/-! ### Construction -/

/-- R130, R132, with the numbers of R10. That INDEX stays as it was with BAD_WIDTH is the model's choice between R130
and R36 (log 9). -/
def Obligations.CfgCommand : Prop :=
  ∀ s : State,
    (1 ≤ s.staging.width.toNat → s.staging.width.toNat ≤ 64 → ∃ c,
      exec .cfg s = .next { s with act := c, err := .ok, busy := false } ∧
      ConstructedFrom c s.act s.staging.width.toNat s.staging.poly s.staging.init s.staging.xorOut s.staging.refIn
        s.staging.refOut s.staging.check 0xFF) ∧
    (¬(1 ≤ s.staging.width.toNat ∧ s.staging.width.toNat ≤ 64) →
      exec .cfg s = .next { s with act := Cleared s.act, err := .badWidth, busy := false })

/-- R134 (a), (b): the table is linear over GF(2). -/
def Obligations.TableIsLinear : Prop :=
  ∀ (w : Nat) (poly : Word) (refIn : Bool), 8 ≤ w → w ≤ 64 →
    tableEntry w poly refIn 0 = 0 ∧
    ∀ i j : Byte, tableEntry w poly refIn (i ^^^ j) = tableEntry w poly refIn i ^^^ tableEntry w poly refIn j

/-- R134 (c)–(f): entries are w-bit values; where the polynomial stands; high bits of poly do not matter; the
reflected table from the plain one. -/
def Obligations.TableLandmarks : Prop :=
  ∀ (w : Nat) (poly : Word), 8 ≤ w → w ≤ 64 →
    (∀ refIn i, (tableEntry w poly refIn i).toNat < 2 ^ w) ∧
    tableEntry w poly false 1 = poly &&& mask w ∧
    tableEntry w poly true 0x80 = reflect poly w ∧
    (∀ refIn i, tableEntry w poly refIn i = tableEntry w (poly &&& mask w) refIn i) ∧
    (∀ i, tableEntry w poly true i = reflect (tableEntry w poly false (reflectByte i)) w)

/-! ### Names and the catalogue -/

/-- R161. -/
def Obligations.NamesCompareByAsciiFold : Prop :=
  (∀ c : Byte, (fold c).toNat = if 0x61 ≤ c.toNat ∧ c.toNat ≤ 0x7A then c.toNat - 0x20 else c.toNat) ∧
  (∀ a q : Name, nameEq a q = true ↔
    a.length = q.length ∧ ∀ i, i < a.length → fold (a.getD i 0) = fold (q.getD i 0))

/-- R160: the four outcomes of LOOKUP, for a record of a legal width. That INDEX stays as it was with NAME_RANGE and
NOT_FOUND is the model's choice between R160 and R36 (log 9). -/
def Obligations.LookupCommand : Prop :=
  ∀ s : State,
    (s.cfg.nameMax < s.nameLen.toNat →
      exec .lookup s = .next { s with act := Cleared s.act, err := .nameRange, busy := false }) ∧
    (s.nameLen.toNat ≤ s.cfg.nameMax → SomeUnwritten s nameBase s.nameLen.toNat →
      exec .lookup s = .next { s with faults := s.faults.add .uninit, busy := false }) ∧
    (∀ q, s.nameLen.toNat ≤ s.cfg.nameMax → q.length = s.nameLen.toNat → HoldsBytes s nameBase q →
      ((∀ v ∈ s.cfg.catalog, ¬Answers v q) →
        exec .lookup s = .next { s with act := Cleared s.act, err := .notFound, busy := false }) ∧
      (∀ k v, s.cfg.catalog[k]? = some v → 1 ≤ v.width → v.width ≤ 64 → Answers v q →
        (∀ j u, j < k → s.cfg.catalog[j]? = some u → ¬Answers u q) → ∃ c,
        exec .lookup s = .next { s with act := c, err := .ok, busy := false } ∧
        ConstructedFrom c s.act v.width v.poly v.init v.xorOut v.refIn v.refOut v.checkValue (BitVec.ofNat 8 k)))

/-- R163, first property: in a well-formed catalogue, LOOKUP of any alias of entry k, in any mix of letter case,
loads entry k with its parameters as the record has them. -/
def Obligations.LookupLoadsTheNamedEntry : Prop :=
  ∀ (s : State) (k : Nat) (v : Variant) (a q : Name),
    catalogWf s.cfg = true → s.cfg.catalog[k]? = some v → a ∈ v.names → nameEq a q = true →
    q.length = s.nameLen.toNat → HoldsBytes s nameBase q →
    ∃ t, exec .lookup s = .next t ∧ t.err = .ok ∧ t.act.valid = true ∧ t.act.index.toNat = k ∧
      t.act.params = variantParams v ∧ t.act.check = v.checkValue

/-- R162: the canonical name with its zero fill and length; INDEX_RANGE at or past CAT_COUNT. The canonical form
of memory it keeps is the model's own (log 5). -/
def Obligations.EnumCommand : Prop :=
  ∀ (s : State) (k : Nat),
    (∀ v, s.cfg.catalog[k]? = some v → ∃ m,
      exec (.enum k) s = .next
        { s with mem := m, onameLen := BitVec.ofNat 64 v.canonicalName.length, err := .ok, busy := false } ∧
      (∀ i, i < s.cfg.nameMax → m.read (onameBase + i) =
        some (if i < v.canonicalName.length then v.canonicalName.getD i 0 else 0)) ∧
      (∀ a, (a < onameBase ∨ onameBase + s.cfg.nameMax ≤ a) → m.read a = s.mem.read a) ∧
      (s.mem.wf = true → m.wf = true)) ∧
    (s.cfg.catalog.length ≤ k → exec (.enum k) s = .next { s with err := .indexRange, busy := false })

/-- R126: the default instance is well-formed, with 67 records and 99 aliases, and every record is known-answer
valid. Its contents are the spec's general knowledge (log 8). -/
def Obligations.DefaultCatalogIsValid : Prop :=
  configWf defaultConfig = true ∧ defaultCatalog.length = 67 ∧ (allNames defaultCatalog).length = 99 ∧
    (∀ v ∈ defaultCatalog, variantKatValid v = true)

/-- R123, of the default CATALOG, whose contents (R125) are the spec's general knowledge (log 8). -/
def Obligations.DefaultCatalogHasPinnedVariants : Prop :=
  (∃ v ∈ defaultCatalog, ascii "CRC-32" ∈ v.names ∧ ascii "PKZIP" ∈ v.names ∧ v.checkValue = 0xCBF43926) ∧
  (∃ v ∈ defaultCatalog, ascii "CRC-16/ARC" ∈ v.names ∧ v.checkValue = 0xBB3D) ∧
  (∃ v ∈ defaultCatalog, ascii "CRC-8" ∈ v.names ∧ v.checkValue = 0xF4) ∧
  (∀ v ∈ defaultCatalog, 3 ≤ v.width ∧ v.width ≤ 40) ∧
  (∃ v ∈ defaultCatalog, v.width ≤ 7) ∧ (∃ v ∈ defaultCatalog, 7 < v.width) ∧
  (∀ n ∈ ["CRC-3/ROHC", "CRC-4/ITU", "CRC-14/DARC", "CRC-31/PHILLIPS", "CRC-40/GSM", "CRC-16/ARC", "CRC-16/KERMIT",
      "CRC-16/XMODEM", "CRC-16/MODBUS", "CRC-16/X-25", "CRC-16/USB", "CRC-16/MAXIM", "CRC-32/BZIP2",
      "CRC-32/MPEG-2", "JAMCRC", "CRC-32C", "CRC-32D"], ascii n ∈ allNames defaultCatalog) ∧
  40 < defaultCatalog.length

/-! ### The engines -/

/-- R142: the table engine and the bit-serial engine compute the same function, for every init. -/
def Obligations.TableEngineEqualsDirectEngine : Prop :=
  ∀ (a : CrcParams) (bytes : List Byte), 8 ≤ a.width → a.width ≤ 64 →
    tableCrc a (buildTable a.width a.poly a.refIn) bytes = directCrc a bytes

/-- "polynomial division (mod 2)" (R1, R8, R11): the register before the final reflection and XOR is the remainder of
init·x^(8n) + message·x^w by the generator x^w + poly over GF(2). -/
def Obligations.DirectEngineDividesPolynomials : Prop :=
  ∀ (a : CrcParams) (bytes : List Byte), 1 ≤ a.width → a.width ≤ 64 → ∃ r : Word,
    r.toNat < 2 ^ a.width ∧
    (Polynomial.X ^ a.width + polyOf a.width a.poly) ∣
      (polyOf a.width a.init * Polynomial.X ^ (8 * bytes.length)
        + bitsPoly (messageBits a.refIn bytes) * Polynomial.X ^ a.width - polyOf a.width r) ∧
    directCrc a bytes = ((if a.refOut then reflect r a.width else r) ^^^ a.xorOut) &&& mask a.width

/-- R152 (b): bits of poly, init and xorOut at the width and above do not change the result. -/
def Obligations.HighParameterBitsAreNeutral : Prop :=
  ∀ (a : CrcParams) (bytes : List Byte), 1 ≤ a.width → a.width ≤ 64 →
    directCrc a bytes =
      directCrc { a with poly := a.poly &&& mask a.width, init := a.init &&& mask a.width,
                         xorOut := a.xorOut &&& mask a.width } bytes

/-- The corner case of R151: width 1, poly 1, init 0 gives the parity of all message bits. -/
def Obligations.WidthOneGivesParity : Prop :=
  ∀ (refIn refOut : Bool) (bytes : List Byte),
    (directCrc ⟨1, 1, 0, 0, refIn, refOut⟩ bytes).toNat = (messageBits refIn bytes).count true % 2

/-! ### CALCD, CALCT, CALC, CHECK -/

/-- R151. -/
def Obligations.CalcdCommand : Prop :=
  ∀ s : State,
    (s.act.valid = false → exec .calcd s = .next { s with err := .noCalc, busy := false }) ∧
    (s.act.valid = true → s.cfg.bufSize < s.len.toNat →
      exec .calcd s = .next { s with err := .lenRange, busy := false }) ∧
    (s.act.valid = true → s.len.toNat ≤ s.cfg.bufSize → SomeUnwritten s bufBase s.len.toNat →
      exec .calcd s = .next { s with faults := s.faults.add .uninit, busy := false }) ∧
    (∀ bytes, s.act.valid = true → s.len.toNat ≤ s.cfg.bufSize → bytes.length = s.len.toNat →
      HoldsBytes s bufBase bytes →
      exec .calcd s = .next { s with result := directCrc s.act.params bytes, err := .ok, busy := false })

/-- R141. -/
def Obligations.CalctCommand : Prop :=
  ∀ s : State,
    (s.act.valid = false → exec .calct s = .next { s with err := .noCalc, busy := false }) ∧
    (s.act.valid = true → s.act.width.toNat ≤ 7 →
      exec .calct s = .next { s with err := .tableNarrow, busy := false }) ∧
    (s.act.valid = true → 7 < s.act.width.toNat → s.cfg.bufSize < s.len.toNat →
      exec .calct s = .next { s with err := .lenRange, busy := false }) ∧
    (s.act.valid = true → 7 < s.act.width.toNat → s.len.toNat ≤ s.cfg.bufSize →
      SomeUnwritten s bufBase s.len.toNat →
      exec .calct s = .next { s with faults := s.faults.add .uninit, busy := false }) ∧
    (∀ bytes, s.act.valid = true → 7 < s.act.width.toNat → s.len.toNat ≤ s.cfg.bufSize →
      bytes.length = s.len.toNat → HoldsBytes s bufBase bytes →
      exec .calct s = .next { s with result := tableCrc s.act.params s.act.table bytes, err := .ok, busy := false })

/-- R180, R181: the table engine for a width above 7, the bit-serial engine otherwise. -/
def Obligations.CalcCommand : Prop :=
  ∀ s : State,
    (s.act.valid = false → exec .calculate s = .next { s with err := .noCalc, busy := false }) ∧
    (s.act.valid = true → s.cfg.bufSize < s.len.toNat →
      exec .calculate s = .next { s with err := .lenRange, busy := false }) ∧
    (s.act.valid = true → s.len.toNat ≤ s.cfg.bufSize → SomeUnwritten s bufBase s.len.toNat →
      exec .calculate s = .next { s with faults := s.faults.add .uninit, busy := false }) ∧
    (∀ bytes, s.act.valid = true → s.len.toNat ≤ s.cfg.bufSize → bytes.length = s.len.toNat →
      HoldsBytes s bufBase bytes →
      (7 < s.act.width.toNat → exec .calculate s =
        .next { s with result := tableCrc s.act.params s.act.table bytes, err := .ok, busy := false }) ∧
      (s.act.width.toNat ≤ 7 → exec .calculate s =
        .next { s with result := directCrc s.act.params bytes, err := .ok, busy := false }))

/-- R170: RESULT is the CRC of "123456789" on both outcomes; neither BUF nor LEN matters. -/
def Obligations.CheckCommand : Prop :=
  ∀ s : State,
    (s.act.valid = false → exec .check s = .next { s with err := .noCalc, busy := false }) ∧
    (s.act.valid = true → ∃ r : Word,
      r = (if 7 < s.act.width.toNat then tableCrc s.act.params s.act.table (ascii "123456789")
        else directCrc s.act.params (ascii "123456789")) ∧
      exec .check s = .next
        { s with result := r, err := if r = s.act.check then .ok else .checkMismatch, busy := false })

/-- R181, R182: on a calculator that meets R39, CALC and CALCD do the same, and so does CALCT where it is legal. -/
def Obligations.CalculationCommandsAgree : Prop :=
  ∀ s : State, CalcInv s.act → s.act.valid = true →
    exec .calculate s = exec .calcd s ∧ (7 < s.act.width.toNat → exec .calct s = exec .calcd s)

/-- R143 and the LEN = 0 case of R151: the empty message, on a calculator that meets R39. -/
def Obligations.EmptyMessageGivesInitXorOut : Prop :=
  ∀ (s : State) (i : Instr), CalcInv s.act → s.act.valid = true → s.len = 0 →
    (i = .calculate ∨ i = .calcd ∨ (i = .calct ∧ 7 < s.act.width.toNat)) →
    exec i s = .next { s with
      result := ((if s.act.refOut then reflect s.act.init s.act.width.toNat else s.act.init) ^^^ s.act.xorOut)
        &&& s.act.mask,
      err := .ok, busy := false }

/-- R25: a CRC command either leaves RESULT as it was or writes an A_WIDTH-bit value. -/
def Obligations.CrcResultsFitTheWidth : Prop :=
  ∀ (i : Instr) (s t : State), isCrcCommand i = true → CalcInv s.act → exec i s = .next t →
    t.result = s.result ∨ t.result.toNat < 2 ^ s.act.width.toNat

/-- R40: CALC, CALCT, CALCD and CHECK are functions of the calculator, LEN and BUF: two states that agree on these
end alike, whatever else differs. -/
def Obligations.CalculationsArePure : Prop :=
  ∀ (i : Instr) (s s' t t' : State), isCrcCommand i = true → s.act = s'.act → s.len = s'.len →
    s.cfg.bufSize = s'.cfg.bufSize → (∀ j, j < s.cfg.bufSize → memRead s (bufBase + j) = memRead s' (bufBase + j)) →
    exec i s = .next t → exec i s' = .next t' →
    (t.result = t'.result ∨ (t.result = s.result ∧ t'.result = s'.result)) ∧
    (t.err = t'.err ∨ (t.err = s.err ∧ t'.err = s'.err))

/-- LOOKUP of a name of a known-answer valid record (R122), then CHECK, passes with the record's check value: one
round of the self-test R171. -/
def Obligations.LookupThenCheckPasses : Prop :=
  ∀ (s : State) (k : Nat) (v : Variant) (q : Name),
    catalogWf s.cfg = true → s.cfg.catalog[k]? = some v → Answers v q → variantKatValid v = true →
    q.length = s.nameLen.toNat → HoldsBytes s nameBase q →
    ∃ t u, exec .lookup s = .next t ∧ exec .check t = .next u ∧ u.err = .ok ∧ u.result = v.checkValue

/-! ### Frames -/

/-- What REFLECT, CALC, CALCT, CALCD and CHECK leave alone: everything but RESULT, ERR, BUSY and FAULTS.UNINIT, and
every byte of memory (R40, R78). -/
def Obligations.ResultCommandsFrame : Prop :=
  ∀ (i : Instr) (s t : State), (isCrcCommand i = true ∨ ∃ w, i = .reflect w) → exec i s = .next t →
    t = { s with result := t.result, err := t.err, busy := false, faults := t.faults } ∧
    (t.faults = s.faults ∨ t.faults = s.faults.add .uninit) ∧ MemoryUnchanged s t

/-- What CFG and LOOKUP leave alone: everything but the calculator, ERR, BUSY and FAULTS.UNINIT, and every byte of
memory (R78); and the calculator ends VALID, or has VALID and TVALID cleared and nothing else changed, or is unchanged.
That INDEX stays as it was when the two are cleared is the model's choice between R130, R160 and R36 (log 9). -/
def Obligations.ConstructionCommandsFrame : Prop :=
  ∀ (i : Instr) (s t : State), (i = .cfg ∨ i = .lookup) → exec i s = .next t →
    t = { s with act := t.act, err := t.err, busy := false, faults := t.faults } ∧
    (t.faults = s.faults ∨ t.faults = s.faults.add .uninit) ∧ MemoryUnchanged s t ∧
    (t.act.valid = true ∨ t.act = Cleared s.act ∨ t.act = s.act)

/-- What ENUM leaves alone: everything but ONAME, ONAME_LEN, ERR and BUSY; and with a failure ONAME_LEN and every
byte of memory too (R162). -/
def Obligations.EnumFrame : Prop :=
  ∀ (k : Nat) (s t : State), exec (.enum k) s = .next t →
    t = { s with mem := t.mem, onameLen := t.onameLen, err := t.err, busy := false } ∧
    (∀ a, (a < onameBase ∨ onameBase + s.cfg.nameMax ≤ a) → memRead t a = memRead s a) ∧
    (t.err ≠ .ok → t.onameLen = s.onameLen ∧ MemoryUnchanged s t)

/-! ### Rules of the whole machine -/

/-- R40: in any step, the calculator changes only by a reset, or by a CFG or LOOKUP the ENGINE performs. -/
def Obligations.OnlyCfgAndLookupChangeCalculator : Prop :=
  ∀ s t : State, step s = .next t → t.act ≠ s.act →
    (∃ rest, s.events = .reset :: rest) ∨
    (s.busy = true ∧ (∃ rest, EngineTurn s rest) ∧ (decode s.cmd = .command .cfg ∨ decode s.cmd = .command .lookup))

/-- R64: the engine never writes BUF or NAME. In any step, a byte outside ONAME's window changes only by a reset or
by a host write to that very address. -/
def Obligations.OnlyTheHostWritesBufAndName : Prop :=
  ∀ (s t : State) (a : Nat), step s = .next t → (a < onameBase ∨ onameBase + s.cfg.nameMax ≤ a) →
    memRead t a ≠ memRead s a →
    (∃ rest, s.events = .reset :: rest) ∨ (∃ v rest, s.events = .write a 1 v :: rest)

/-- R43, R127, R224: no step writes CATALOG, BUF_SIZE or NAME_MAX. -/
def Obligations.ConfigurationIsImmutable : Prop :=
  ∀ s t : State, step s = .next t → t.cfg = s.cfg

/-- R44: a fault, once recorded, stays until a reset; so do STATUS.HAZ and STATUS.AERR (R24). -/
def Obligations.FaultsAreStickyUntilReset : Prop :=
  ∀ (s t : State) (f : Fault), step s = .next t → (∀ rest, s.events ≠ .reset :: rest) →
    (s.faults.has f = true → t.faults.has f = true) ∧ (s.haz = true → t.haz = true) ∧ (s.aerr = true → t.aerr = true)

/-- R190: each command completes with one of its own codes, or, after the fault UNINIT, with ERR as it was. -/
def Obligations.CommandsRaiseTheirOwnCodes : Prop :=
  (∀ (i : Instr) (s t : State), exec i s = .next t →
    t.err ∈ mayRaise i ∨ (t.err = s.err ∧ t.faults = s.faults.add .uninit)) ∧
  (∀ s : State, (statusWord s).toNat / 256 ≤ 9)

/-- R225, R228, R230: whatever host reads and writes come while a command is pending, the command keeps the inputs it
had at issue. -/
def Obligations.PendingCommandKeepsItsInputs : Prop :=
  ∀ (es : List Event) (s t : State), s.busy = true → s.events = es →
    (∀ e ∈ es, (∃ a n, e = .read a n) ∨ ∃ a n v, e = .write a n v) →
    core.run es.length s = .next t →
    t.busy = true ∧ t.cmd = s.cmd ∧ t.opa = s.opa ∧ t.len = s.len ∧ t.nameLen = s.nameLen ∧ t.staging = s.staging ∧
      t.act = s.act ∧ t.mem = s.mem ∧ t.result = s.result ∧ t.onameLen = s.onameLen ∧ t.err = s.err

/-! ### The HOST port -/

/-- R62: exactly which accesses are well-formed, for an instance with legal parameters. -/
def Obligations.WellFormedAccesses : Prop :=
  ∀ (s : State) (a n : Nat), configWf s.cfg = true →
    (readTarget s a n ≠ none ↔
      (n = 8 ∧ ∃ r : Reg, a = regOffset r) ∨
      (n = 8 ∧ s.act.tvalid = true ∧ ∃ i, i < 256 ∧ a = 0x3000 + 8 * i) ∨
      (n = 1 ∧ ∃ i, (i < s.cfg.nameMax ∧ (a = 0x1000 + i ∨ a = 0x2000 + i)) ∨
        (i < s.cfg.bufSize ∧ a = 0x100000 + i))) ∧
    (writeTarget s a n ≠ none ↔
      (n = 8 ∧ ∃ r : Reg, a = regOffset r ∧ regRight r ≠ .ro) ∨
      (n = 1 ∧ ∃ i, (i < s.cfg.nameMax ∧ a = 0x1000 + i) ∨ (i < s.cfg.bufSize ∧ a = 0x100000 + i)))

/-- R66: an access error stores nothing, a read returns 0, AERR is set and recorded, whatever BUSY is. -/
def Obligations.AccessErrorEffect : Prop :=
  ∀ (s : State) (a n : Nat) (rest : List Event),
    (s.events = .read a n :: rest → readTarget s a n = none →
      step s = .next { s with events := rest, reads := s.reads ++ [0], aerr := true, faults := s.faults.add .aerr }) ∧
    (∀ v, s.events = .write a n v :: rest → writeTarget s a n = none →
      step s = .next { s with events := rest, aerr := true, faults := s.faults.add .aerr })

/-- R228: a well-formed write while busy stores nothing, HAZ is set and recorded, and the pending command is not
affected: it then does what it would have done, but for those bits. -/
def Obligations.WriteWhileBusyIsDropped : Prop :=
  ∀ (s : State) (a n : Nat) (v : Word) (rest : List Event),
    s.events = .write a n v :: rest → s.busy = true → writeTarget s a n ≠ none →
    step s = .next { s with events := rest, haz := true, faults := s.faults.add .haz } ∧
    ∀ i t u, exec i s = .next t → exec i { s with events := rest, haz := true, faults := s.faults.add .haz } = .next u →
      u = { t with events := rest, haz := true, faults := t.faults.add .haz }

/-- R63, R73, R229: a well-formed read changes nothing but what the host has read and seen, and the count of draws.
STATUS and CAPS read as always. Idle, a register or byte reads as stored, unless it is a command's outcome (RESULT,
ONAME, ONAME_LEN, A_*, TABLE) and the host has not read STATUS with BUSY = 0 since the issue; such a read, like one of
any other register while busy, returns a free value. The flag for what the host has seen is the model's own (log 15), and
so are the form of a free value and the count of draws (log 3). -/
def Obligations.HostReadReturns : Prop :=
  ∀ (s : State) (a n : Nat) (rest : List Event), s.events = .read a n :: rest → readTarget s a n ≠ none →
    (∃ v d e, step s = .next { s with events := rest, reads := s.reads ++ [v], draws := d, unseen := e } ∧
      (n = 1 → v.toNat < 256) ∧ (e = s.unseen ∨ (e = false ∧ s.busy = false ∧ a = regOffset .status))) ∧
    (s.busy = true → (a = regOffset .status ∨ a = regOffset .caps) → ∃ r, regOffset r = a ∧
      step s = .next { s with events := rest, reads := s.reads ++ [readReg r s] }) ∧
    (∀ r, a = regOffset r → n = 8 →
      (s.busy = false → (s.unseen = false ∨ r ∉ outcomeRegs) →
        step s = .next { s with events := rest, reads := s.reads ++ [readReg r s],
                                unseen := if r = .status then false else s.unseen }) ∧
      ((s.busy = true ∧ r ≠ .status ∧ r ≠ .caps) ∨ (s.busy = false ∧ s.unseen = true ∧ r ∈ outcomeRegs) →
        step s = .next { s with events := rest, reads := s.reads ++ [Config.freeDraw s.draws],
                                draws := s.draws + 1 })) ∧
    (s.busy = false → ∀ b, n = 1 → memRead s a = some b →
      (s.unseen = false ∨ a < onameBase ∨ onameBase + s.cfg.nameMax ≤ a) →
      step s = .next { s with events := rest, reads := s.reads ++ [b.setWidth 64] })

/-- R73: in any step, the host comes to see a command's outcome only by a reset or by reading STATUS with BUSY = 0, and
ceases to only by issuing a command. The flag is the model's own (log 15). -/
def Obligations.OutcomeIsSeenThroughStatus : Prop :=
  ∀ s t : State, step s = .next t →
    (s.unseen = true → t.unseen = false →
      (∃ rest, s.events = .reset :: rest) ∨
      (s.busy = false ∧ ∃ rest, s.events = .read (regOffset .status) 8 :: rest)) ∧
    (s.unseen = false → t.unseen = true →
      s.busy = false ∧ ∃ v rest, s.events = .write (regOffset .cmd) 8 v :: rest ∧ t.cmd = v ∧ t.busy = true)

/-- R63, R67 and R73 for TABLE, on a calculator that meets R39: while TVALID = 1, an idle read of entry i returns entry i
of the table built from the A_* registers, once the host has seen BUSY = 0 (the flag for that is the model's own, log 15);
while TVALID = 0, it is an access error. -/
def Obligations.TableReadsMatchTheCalculator : Prop :=
  ∀ (s : State) (i : Byte) (rest : List Event), CalcInv s.act → s.events = .read (tableBase + 8 * i.toNat) 8 :: rest →
    (s.act.valid = true → s.act.tvalid = true → s.busy = false → s.unseen = false →
      step s = .next { s with
        events := rest, reads := s.reads ++ [tableEntry s.act.width.toNat s.act.poly s.act.refIn i] }) ∧
    (s.act.tvalid = false →
      step s = .next { s with events := rest, reads := s.reads ++ [0], aerr := true, faults := s.faults.add .aerr })

/-- R23, R26–R28, R31–R34: an idle write of a writable register reads back as written (of P_FLAGS, its two bits); it
changes no other register but STATUS.BUSY for CMD, no memory, and never the active calculator. That CMD sets the flag for
what the host has yet to see is the model's form of R73 (log 15). -/
def Obligations.RegisterWritesReadBack : Prop :=
  ∀ (s : State) (r : Reg) (v : Word) (rest : List Event),
    s.events = .write (regOffset r) 8 v :: rest → s.busy = false → regRight r ≠ .ro →
    ∃ t, step s = .next t ∧ readReg r t = (if r = .pFlags then v &&& 3 else v) ∧
      (∀ r', r' ≠ r → r' ≠ .status → readReg r' t = readReg r' s) ∧
      statusWord t = (if r = .cmd then statusWord s ||| 1 else statusWord s) ∧
      t.act = s.act ∧ t.mem = s.mem ∧ t.faults = s.faults ∧ t.cfg = s.cfg ∧
      t.events = rest ∧ t.reads = s.reads ∧ t.draws = s.draws ∧ (t.unseen = true ↔ r = .cmd ∨ s.unseen = true)

/-- R63: an idle write of a NAME or BUF byte stores v[7:0], marks that byte written, and changes no other byte. The
canonical form of memory it keeps is the model's own (log 5). -/
def Obligations.ByteWritesStoreOneByte : Prop :=
  ∀ (s : State) (a : Nat) (v : Word) (rest : List Event), configWf s.cfg = true →
    s.events = .write a 1 v :: rest → s.busy = false → writeTarget s a 1 ≠ none →
    ∃ m, step s = .next { s with events := rest, mem := m } ∧ m.read a = some (v.setWidth 8) ∧
      (∀ a', a' ≠ a → m.read a' = s.mem.read a') ∧ (s.mem.wf = true → m.wf = true)

/-- R24, R30, R33, R36: the packed registers as numbers. -/
def Obligations.PackedRegisterLayouts : Prop :=
  (∀ s : State, (statusWord s).toNat =
    s.busy.toNat + 2 * s.haz.toNat + 4 * s.aerr.toNat + 256 * (errNumber s.err).toNat) ∧
  (∀ c : Calculator, (aFlagsWord c).toNat =
    c.refIn.toNat + 2 * c.refOut.toNat + 4 * c.valid.toNat + 8 * c.tvalid.toNat + 256 * c.index.toNat) ∧
  (∀ p : Staging, (pFlagsWord p).toNat = p.refIn.toNat + 2 * p.refOut.toNat) ∧
  (∀ c : Config, configWf c = true → (capsWord c).toNat =
    c.catalog.length + 2 ^ 8 * c.nameMax + 2 ^ 16 * c.bufSize + 2 ^ 40 * 64 + 2 ^ 48)
end

