-- ==== Sys2Proof/Laws/Crc.lean ====
section
/-! SUPPORT. One specification lemma per pure function of the core: which bits Mask, HighBit and Reflect have, and
what a table lookup reads. -/

namespace Sys2Proof.Machine

theorem one_shiftLeft_getLsbD (n i : Nat) : (1#64 <<< n).getLsbD i = decide (i = n ∧ i < 64) := by
  rw [BitVec.getLsbD_shiftLeft, BitVec.getLsbD_one]
  by_cases h : i = n
  · subst h; by_cases h6 : i < 64 <;> simp [h6]
  · by_cases h6 : i < 64 <;> by_cases h7 : i < n <;> simp [h, h6, h7]
    omega

/-- `Mask(w)` is 2^w - 1 (R10). -/
theorem mask_toNat (w : Nat) (h1 : 1 ≤ w) (h2 : w ≤ 64) : (mask w).toNat = 2 ^ w - 1 := by
  interval_cases w <;> rfl

/-- `HighBit(w)` is 2^(w-1) (R10). -/
theorem highBit_toNat (w : Nat) (h1 : 1 ≤ w) (h2 : w ≤ 64) : (highBit w).toNat = 2 ^ (w - 1) := by
  interval_cases w <;> rfl

theorem mask_getLsbD (w i : Nat) (h1 : 1 ≤ w) (h2 : w ≤ 64) : (mask w).getLsbD i = decide (i < w) := by
  rw [BitVec.getLsbD, mask_toNat w h1 h2, Nat.testBit_two_pow_sub_one]

theorem highBit_getLsbD (w i : Nat) (h1 : 1 ≤ w) (h2 : w ≤ 64) : (highBit w).getLsbD i = decide (i = w - 1) := by
  rw [highBit, one_shiftLeft_getLsbD]
  by_cases h : i = w - 1
  · subst h; simp; omega
  · simp [h]

/-- Masking keeps the low w bits: the value modulo 2^w. -/
theorem and_mask_toNat (v : Word) (w : Nat) (h1 : 1 ≤ w) (h2 : w ≤ 64) : (v &&& mask w).toNat = v.toNat % 2 ^ w := by
  rw [BitVec.toNat_and, mask_toNat w h1 h2, Nat.and_two_pow_sub_one_eq_mod]

theorem and_mask_eq_self (v : Word) (w : Nat) (h1 : 1 ≤ w) (h2 : w ≤ 64) (h : v.toNat < 2 ^ w) :
    v &&& mask w = v := by
  apply BitVec.eq_of_toNat_eq
  rw [and_mask_toNat v w h1 h2, Nat.mod_eq_of_lt h]

theorem and_highBit_ne_zero (v : Word) (w : Nat) (h1 : 1 ≤ w) (h2 : w ≤ 64) :
    ((v &&& highBit w) != 0) = v.getLsbD (w - 1) := by
  by_cases hb : v.getLsbD (w - 1) = true
  · have : v &&& highBit w ≠ 0 := by
      intro h
      have := congrArg (fun x => BitVec.getLsbD x (w - 1)) h
      simp [highBit_getLsbD w _ h1 h2, hb] at this
    rw [hb]
    exact bne_iff_ne.2 this
  · have : v &&& highBit w = 0 := by
      apply BitVec.eq_of_getLsbD_eq
      intro i hi
      rw [BitVec.getLsbD_and, highBit_getLsbD w _ h1 h2]
      by_cases h : i = w - 1
      · subst h; simp [hb]
      · simp [h]
    rw [this]
    simpa using hb

theorem reflect_fold_bit (v : Word) (w n i : Nat) (hn : n ≤ w) (hw : w ≤ 64) :
    ((List.range n).foldl (fun out k => if v.getLsbD k then out ||| (1#64 <<< (w - 1 - k)) else out) 0#64).getLsbD i
      = true ↔ i < w ∧ w - 1 - i < n ∧ v.getLsbD (w - 1 - i) = true := by
  induction n with
  | zero => simp
  | succ n ih =>
    rw [List.range_succ, List.foldl_append, List.foldl_cons, List.foldl_nil]
    have ih := ih (by omega)
    by_cases e : i < w ∧ w - 1 - i = n
    · have ei : i = w - 1 - n := by omega
      by_cases hb : v.getLsbD n = true
      · rw [if_pos hb, BitVec.getLsbD_or, one_shiftLeft_getLsbD, Bool.or_eq_true]
        exact iff_of_true (.inr (by simp; omega)) ⟨e.1, by omega, by rw [e.2]; exact hb⟩
      · rw [if_neg hb, ih]
        exact iff_of_false (fun h => by omega) (fun h => hb (by rw [← e.2]; exact h.2.2))
    · have hlt : (i < w ∧ w - 1 - i < n + 1) ↔ (i < w ∧ w - 1 - i < n) := by omega
      have hne : ¬(i = w - 1 - n ∧ i < 64) := by omega
      split
      · rw [BitVec.getLsbD_or, one_shiftLeft_getLsbD, Bool.or_eq_true, ih, decide_eq_true_eq, ← and_assoc, ← and_assoc,
          hlt]
        exact or_iff_left hne
      · rw [ih, ← and_assoc, ← and_assoc, hlt]

/-- The bits of `Reflect(v, w)` (R110): bit i of the result is bit w-1-i of v for i < w, and 0 above. -/
theorem reflect_getLsbD (v : Word) (w i : Nat) (hw : w ≤ 64) :
    (reflect v w).getLsbD i = (decide (i < w) && v.getLsbD (w - 1 - i)) := by
  rw [Bool.eq_iff_iff, reflect, reflect_fold_bit v w w i (le_refl w) hw, Bool.and_eq_true, decide_eq_true_eq]
  constructor
  · rintro ⟨h, -, hb⟩; exact ⟨h, hb⟩
  · rintro ⟨h, hb⟩; exact ⟨h, by omega, hb⟩

/-- The bits of a reflected byte. -/
theorem reflectByte_getLsbD (b : Byte) (i : Nat) : (reflectByte b).getLsbD i = (decide (i < 8) && b.getLsbD (7 - i)) := by
  rw [reflectByte, BitVec.getLsbD_setWidth, reflect_getLsbD _ 8 i (by omega), BitVec.getLsbD_setWidth]
  by_cases h : i < 8
  · have : 8 - 1 - i < 64 := by omega
    simp [h, this]
  · simp [h]

/-- A table lookup in `BuildTable(w, poly, refIn)` reads the entry of R131. -/
theorem tableAt_buildTable (w : Nat) (poly : Word) (refIn : Bool) (i : Byte) :
    tableAt (buildTable w poly refIn) i = tableEntry w poly refIn i := by
  simp [tableAt, buildTable]

theorem tableRounds_succ (w : Nat) (poly : Word) (n : Nat) (r : Word) :
    tableRounds w poly (n + 1) r = tableRounds w poly n (tableRound w poly r) := rfl

theorem directBits_succ (a : CrcParams) (c : Byte) (j : Nat) (crc : Word) :
    directBits a c (j + 1) crc = directBits a c j (directBit a crc (c.getLsbD j)) := rfl

/-- The two engines are left folds of their byte step over the message (R140, R152(c)). -/
theorem tableCrc_append (a : CrcParams) (t : Table) (xs ys : List Byte) :
    tableCrc a t (xs ++ ys) =
      tableFinish a (ys.foldl (tableByte a t) (xs.foldl (tableByte a t) (tableStart a))) := by
  rw [tableCrc, List.foldl_append]

theorem directCrc_append (a : CrcParams) (xs ys : List Byte) :
    directCrc a (xs ++ ys) = directFinish a (ys.foldl (directByte a) (xs.foldl (directByte a) a.init)) := by
  rw [directCrc, List.foldl_append]

theorem dispatchCrc_wide (a : CrcParams) (t : Table) (bytes : List Byte) (h : 7 < a.width) :
    dispatchCrc a t bytes = tableCrc a t bytes := if_pos h

theorem dispatchCrc_narrow (a : CrcParams) (t : Table) (bytes : List Byte) (h : a.width ≤ 7) :
    dispatchCrc a t bytes = directCrc a bytes := if_neg (by simpa using h)

end Sys2Proof.Machine
end

