-- ==== Sys2Proof/Laws/Memory.lean ====
section
/-! SUPPORT. The laws of the byte memories: a read after a write, and that every operation keeps the canonical
form. -/

namespace Sys2Proof.Machine

namespace Memory

theorem listed_filter_ne (m : Memory) (a a' : Nat) :
    listed (m.filter fun c => c.1 ≠ a) a' = if a' = a then none else listed m a' := by
  induction m with
  | nil => simp [listed]
  | cons c m ih =>
    obtain ⟨k, b⟩ := c
    by_cases hk : k = a
    · subst hk
      simp only [ne_eq, not_true_eq_false, decide_false, Bool.false_eq_true, not_false_eq_true,
        List.filter_cons_of_neg, listed]
      rw [show (m.filter fun c => decide ¬c.1 = k) = m.filter fun c => c.1 ≠ k from rfl, ih]
      by_cases h : a' = k
      · simp [h]
      · simp [h, Ne.symm h]
    · rw [List.filter_cons_of_pos (by simpa using hk)]
      simp only [listed, ih]
      by_cases h : k = a'
      · subst h; simp [hk]
      · simp [h]

theorem listed_insert (m : Memory) (a : Nat) (b : Byte) (a' : Nat) :
    listed (insert m a b) a' = if a' = a then some b else listed m a' := by
  induction m with
  | nil => by_cases h : a = a' <;> simp [insert, listed, h, eq_comm]
  | cons c m ih =>
    obtain ⟨k, c⟩ := c
    simp only [insert]
    split
    · by_cases h : a = a'
      · simp [listed, h]
      · simp [listed, h, Ne.symm h]
    · split
      · subst_vars
        by_cases h : k = a'
        · simp [listed, h]
        · simp [listed, h, Ne.symm h]
      · simp only [listed, ih]
        by_cases h : k = a'
        · subst h; rename_i h2; simp [Ne.symm h2]
        · simp [h]

/-- The read-after-write law, at every address. -/
theorem read_write (m : Memory) (a : Nat) (b : Byte) (a' : Nat) :
    (m.write a b).read a' = if a' = a then some b else m.read a' := by
  unfold write
  split
  · rename_i h
    simp only [read, listed_filter_ne]
    by_cases h' : a' = a
    · simp [h', h]
    · simp [h']
  · simp only [read, listed_insert]
    by_cases h' : a' = a <;> simp [h']

@[simp] theorem read_write_same (m : Memory) (a : Nat) (b : Byte) : (m.write a b).read a = some b := by
  simp [read_write]

theorem read_write_other (m : Memory) {a a' : Nat} (b : Byte) (h : a' ≠ a) : (m.write a b).read a' = m.read a' := by
  simp [read_write, h]

theorem rising_cons (c : Host.Cell) (m : Memory) :
    rising (c :: m) = true ↔ (∀ d ∈ m, c.1 < d.1) ∧ rising m = true := by
  induction m generalizing c with
  | nil => simp [rising]
  | cons d m ih =>
    simp only [rising, Bool.and_eq_true, decide_eq_true_eq, List.mem_cons, forall_eq_or_imp]
    constructor
    · rintro ⟨h1, h2⟩
      refine ⟨⟨h1, fun e he => ?_⟩, h2⟩
      exact lt_trans h1 (((ih d).1 h2).1 e he)
    · rintro ⟨⟨h1, -⟩, h2⟩
      exact ⟨h1, h2⟩

theorem rising_filter (m : Memory) (p : Host.Cell → Bool) (h : rising m = true) : rising (m.filter p) = true := by
  induction m with
  | nil => exact h
  | cons c m ih =>
    obtain ⟨h1, h2⟩ := (rising_cons c m).1 h
    by_cases hp : p c
    · rw [List.filter_cons_of_pos hp, rising_cons]
      exact ⟨fun d hd => h1 d (List.mem_of_mem_filter hd), ih h2⟩
    · rw [List.filter_cons_of_neg hp]; exact ih h2

theorem mem_insert {m : Memory} {a : Nat} {b : Byte} {c : Host.Cell} (h : c ∈ insert m a b) : c = (a, b) ∨ c ∈ m := by
  induction m with
  | nil => simpa [insert] using h
  | cons d m ih =>
    obtain ⟨k, e⟩ := d
    simp only [insert] at h
    split at h
    · simpa using h
    · split at h
      · simp only [List.mem_cons] at h ⊢; tauto
      · simp only [List.mem_cons] at h ⊢
        rcases h with h | h
        · exact .inr (.inl h)
        · rcases ih h with h | h <;> tauto

theorem rising_insert (m : Memory) (a : Nat) (b : Byte) (h : rising m = true) : rising (insert m a b) = true := by
  induction m with
  | nil => rfl
  | cons d m ih =>
    obtain ⟨k, e⟩ := d
    obtain ⟨h1, h2⟩ := (rising_cons (k, e) m).1 h
    simp only [insert]
    split
    · rename_i hlt
      rw [rising_cons]
      refine ⟨fun d hd => ?_, h⟩
      rcases List.mem_cons.1 hd with rfl | hd
      · exact hlt
      · exact lt_trans hlt (h1 d hd)
    · split
      · rename_i heq
        subst heq
        rw [rising_cons]; exact ⟨h1, h2⟩
      · rename_i hlt hne
        rw [rising_cons]
        refine ⟨fun d hd => ?_, ih h2⟩
        rcases mem_insert hd with rfl | hd
        · exact lt_of_le_of_ne (not_lt.1 hlt) (Ne.symm hne)
        · exact h1 d hd

theorem wf_iff (m : Memory) : m.wf = true ↔ rising m = true ∧ ∀ c ∈ m, unlisted c.1 ≠ some c.2 := by
  simp [wf]

/-- A write keeps the canonical form. -/
theorem wf_write (m : Memory) (a : Nat) (b : Byte) (h : m.wf = true) : (m.write a b).wf = true := by
  rw [wf_iff] at h ⊢
  unfold write
  split
  · exact ⟨rising_filter m _ h.1, fun c hc => h.2 c (List.mem_of_mem_filter hc)⟩
  · rename_i hb
    refine ⟨rising_insert m a b h.1, fun c hc => ?_⟩
    rcases mem_insert hc with rfl | hc
    · exact hb
    · exact h.2 c hc

/-- Every cell after a write was there before or is at the address written. -/
theorem mem_write {m : Memory} {a : Nat} {b : Byte} {c : Host.Cell} (h : c ∈ m.write a b) : c.1 = a ∨ c ∈ m := by
  unfold write at h
  split at h
  · exact .inr (List.mem_of_mem_filter h)
  · rcases mem_insert h with rfl | h
    · exact .inl rfl
    · exact .inr h

theorem wf_writeBytes (m : Memory) (a : Nat) (bs : List Byte) (h : m.wf = true) :
    (m.writeBytes a bs).wf = true := by
  induction bs generalizing m a with
  | nil => exact h
  | cons b bs ih => exact ih _ _ (wf_write m a b h)

theorem mem_writeBytes {m : Memory} {a : Nat} {bs : List Byte} {c : Host.Cell} (h : c ∈ m.writeBytes a bs) :
    (a ≤ c.1 ∧ c.1 < a + bs.length) ∨ c ∈ m := by
  induction bs generalizing m a with
  | nil => exact .inr h
  | cons b bs ih =>
    rcases ih h with h | h
    · left; simp only [List.length_cons]; omega
    · rcases mem_write h with h | h
      · left; simp only [List.length_cons]; omega
      · exact .inr h

/-- A read after `writeBytes`, at every address. -/
theorem read_writeBytes (m : Memory) (a : Nat) (bs : List Byte) (a' : Nat) :
    (m.writeBytes a bs).read a' =
      if a ≤ a' ∧ a' < a + bs.length then bs[a' - a]? else m.read a' := by
  induction bs generalizing m a with
  | nil => simp [writeBytes]
  | cons b bs ih =>
    simp only [writeBytes, ih, read_write, List.length_cons]
    by_cases h1 : a' = a
    · subst h1; simp
    · by_cases h2 : a + 1 ≤ a' ∧ a' < a + 1 + bs.length
      · have h3 : a ≤ a' ∧ a' < a + (bs.length + 1) := by omega
        rw [if_pos h2, if_pos h3, show a' - a = (a' - (a + 1)) + 1 by omega, List.getElem?_cons_succ]
      · have h3 : ¬(a ≤ a' ∧ a' < a + (bs.length + 1)) := by omega
        rw [if_neg h2, if_neg h3, if_neg h1]

/-- `readBytes` answers bytes exactly when each of the n addresses holds that byte. -/
theorem readBytes_eq_some (m : Memory) (a n : Nat) (bs : List Byte) :
    m.readBytes a n = some bs ↔ bs.length = n ∧ ∀ i, i < n → m.read (a + i) = bs[i]? := by
  induction n generalizing a bs with
  | zero =>
    simp only [readBytes, Option.some.injEq, Nat.not_lt_zero, false_imp_iff, implies_true, and_true]
    rw [List.length_eq_zero_iff, eq_comm]
  | succ n ih =>
    simp only [readBytes]
    constructor
    · intro h
      split at h
      · rename_i b cs hb hcs
        obtain ⟨hl, hr⟩ := (ih (a + 1) cs).1 hcs
        cases h
        refine ⟨by simp [hl], fun i hi => ?_⟩
        cases i with
        | zero => simpa using hb
        | succ i =>
          rw [List.getElem?_cons_succ, ← hr i (by omega)]
          congr 1; omega
      · cases h
    · rintro ⟨hl, hr⟩
      cases bs with
      | nil => simp at hl
      | cons b cs =>
        have h0 : m.read a = some b := by simpa using hr 0 (by omega)
        have h1 : m.readBytes (a + 1) n = some cs := by
          refine (ih (a + 1) cs).2 ⟨by simpa using hl, fun i hi => ?_⟩
          have := hr (i + 1) (by omega)
          rw [List.getElem?_cons_succ] at this
          rw [← this]; congr 1; omega
        simp [h0, h1]

/-- `readBytes` answers none exactly when one of the n addresses holds no value. -/
theorem readBytes_eq_none (m : Memory) (a n : Nat) :
    m.readBytes a n = none ↔ ∃ i, i < n ∧ m.read (a + i) = none := by
  induction n generalizing a with
  | zero => simp [readBytes]
  | succ n ih =>
    simp only [readBytes]
    cases h0 : m.read a with
    | none => simp only [true_iff]; exact ⟨0, by omega, by simpa using h0⟩
    | some b =>
      cases h1 : m.readBytes (a + 1) n with
      | none =>
        obtain ⟨i, hi, hr⟩ := (ih (a + 1)).1 h1
        simp only [true_iff]
        exact ⟨i + 1, by omega, by rw [show a + (i + 1) = a + 1 + i by omega]; exact hr⟩
      | some cs =>
        simp only [reduceCtorEq, false_iff, not_exists, not_and]
        intro i hi hr
        cases i with
        | zero => simp [h0] at hr
        | succ i =>
          have := (ih (a + 1)).2 ⟨i, by omega, by rw [show a + 1 + i = a + (i + 1) by omega]; exact hr⟩
          simp [h1] at this

theorem wf_nil : wf [] = true := rfl

end Memory

end Sys2Proof.Machine
end

