-- ==== Sys2Proof/Laws/Registry.lean ====
section
/-! SUPPORT. What the name decoder does: NameEq, and the search of LOOKUP (spec/45_registry.md R160, R161). -/

namespace Sys2Proof.Machine

/-- Two names are equal under NameEq exactly when their folded byte strings are. -/
theorem nameEq_iff_map_fold (a q : Name) : nameEq a q = true ↔ a.map fold = q.map fold := by
  induction a generalizing q with
  | nil => cases q <;> simp [nameEq]
  | cons c cs ih => cases q <;> simp [nameEq, ih]

theorem nameEq_refl (a : Name) : nameEq a a = true := (nameEq_iff_map_fold a a).2 rfl

theorem nameEq_symm {a q : Name} (h : nameEq a q = true) : nameEq q a = true :=
  (nameEq_iff_map_fold q a).2 ((nameEq_iff_map_fold a q).1 h).symm

theorem nameEq_trans {a b c : Name} (h : nameEq a b = true) (h' : nameEq b c = true) : nameEq a c = true :=
  (nameEq_iff_map_fold a c).2 (((nameEq_iff_map_fold a b).1 h).trans ((nameEq_iff_map_fold b c).1 h'))

theorem nameEq_length {a q : Name} (h : nameEq a q = true) : a.length = q.length := by
  simpa using congrArg List.length ((nameEq_iff_map_fold a q).1 h)

/-- The search finds the first record with an alias equal to the query. -/
theorem findVariant_eq_some (q : Name) (k : Nat) (vs : List Variant) (j : Nat) (v : Variant) :
    findVariant q k vs = some (j, v) ↔
      ∃ i, j = k + i ∧ vs[i]? = some v ∧ v.names.any (fun a => nameEq a q) = true ∧
        ∀ i' < i, ∀ v', vs[i']? = some v' → v'.names.any (fun a => nameEq a q) = false := by
  induction vs generalizing k with
  | nil => simp [findVariant]
  | cons u us ih =>
    simp only [findVariant]
    split
    · rename_i hu
      constructor
      · intro h
        cases h
        exact ⟨0, rfl, rfl, hu, fun _ hi => absurd hi (Nat.not_lt_zero _)⟩
      · rintro ⟨i, rfl, hv, -, hmin⟩
        cases i with
        | zero => simp at hv; simp [hv]
        | succ i => simp [hmin 0 (Nat.succ_pos i) u rfl] at hu
    · rename_i hu
      rw [ih]
      constructor
      · rintro ⟨i, rfl, hv, hm, hmin⟩
        refine ⟨i + 1, by omega, hv, hm, fun i' hi' v' hv' => ?_⟩
        cases i' with
        | zero => simp at hv'; subst hv'; simpa using hu
        | succ i' => exact hmin i' (by omega) v' hv'
      · rintro ⟨i, rfl, hv, hm, hmin⟩
        cases i with
        | zero => simp at hv; subst hv; exact absurd hm hu
        | succ i =>
          exact ⟨i, by omega, hv, hm, fun i' hi' v' hv' => hmin (i' + 1) (by omega) v' hv'⟩

/-- The search finds nothing exactly when no alias of any record is equal to the query. -/
theorem findVariant_eq_none (q : Name) (k : Nat) (vs : List Variant) :
    findVariant q k vs = none ↔ ∀ v ∈ vs, v.names.any (fun a => nameEq a q) = false := by
  induction vs generalizing k with
  | nil => simp [findVariant]
  | cons u us ih =>
    simp only [findVariant, List.mem_cons, forall_eq_or_imp]
    split
    · rename_i hu; simp [hu]
    · rename_i hu
      rw [ih]
      exact ⟨fun h => ⟨by simpa using hu, h⟩, And.right⟩

theorem paddedName_length (n : Nat) (s : Name) : (paddedName n s).length = n := by simp [paddedName]

theorem paddedName_getElem? (n : Nat) (s : Name) (i : Nat) :
    (paddedName n s)[i]? = if i < n then some (s.getD i 0) else none := by
  by_cases h : i < n
  · simp [paddedName, h]
  · simp [paddedName, h]

/-- Distinctness of an appended list of aliases: of each part, and across the two.
This is what splits R121(e) by record. -/
theorem namesDistinct_append (xs ys : List Name) :
    namesDistinct (xs ++ ys) = true ↔
      namesDistinct xs = true ∧ namesDistinct ys = true ∧ ∀ a ∈ xs, ∀ b ∈ ys, nameEq a b = false := by
  induction xs with
  | nil => simp [namesDistinct]
  | cons x xs ih =>
    simp only [List.cons_append, namesDistinct, Bool.and_eq_true, ih, List.all_append, List.mem_cons,
      forall_eq_or_imp, List.all_eq_true, Bool.not_eq_true']
    tauto

/-- What R121(a)–(c) give of a well-formed catalogue: its size, and the legal width and w-bit values of a record. -/
theorem catalogWf_length {cfg : Config} (h : catalogWf cfg = true) :
    1 ≤ cfg.catalog.length ∧ cfg.catalog.length ≤ 255 := by
  simp only [catalogWf, Bool.and_eq_true, decide_eq_true_eq] at h
  exact h.1.1

theorem catalogWf_variant {cfg : Config} (h : catalogWf cfg = true) {v : Variant} (hv : v ∈ cfg.catalog) :
    (1 ≤ v.width ∧ v.width ≤ 64) ∧ (v.poly.toNat < 2 ^ v.width ∧ v.init.toNat < 2 ^ v.width ∧
      v.xorOut.toNat < 2 ^ v.width ∧ v.checkValue.toNat < 2 ^ v.width) ∧
      ∀ a ∈ v.names, 1 ≤ a.length ∧ a.length ≤ cfg.nameMax := by
  simp only [catalogWf, Bool.and_eq_true, List.all_eq_true] at h
  have hv := h.1.2 v hv
  simp only [variantOk, Bool.and_eq_true, decide_eq_true_eq, List.all_eq_true] at hv
  refine ⟨hv.1.1, hv.1.2, fun a ha => ?_⟩
  have := hv.2 a ha
  simp only [nameOk, Bool.and_eq_true, decide_eq_true_eq] at this
  exact this.1

/-- R121(e): in a catalogue with distinct aliases, equal aliases stand in the same record. -/
theorem namesDistinct_unique {vs : List Variant} (h : namesDistinct (allNames vs) = true) {j k : Nat} {u v : Variant}
    {a b : Name} (hu : vs[j]? = some u) (hv : vs[k]? = some v) (ha : a ∈ u.names) (hb : b ∈ v.names)
    (hab : nameEq a b = true) : j = k := by
  induction vs generalizing j k with
  | nil => simp at hu
  | cons w ws ih =>
    rw [allNames, List.flatMap_cons, namesDistinct_append] at h
    obtain ⟨-, h2, h3⟩ := h
    have later : ∀ {i : Nat} {x : Variant} {c : Name}, ws[i]? = some x → c ∈ x.names → c ∈ ws.flatMap Variant.names :=
      fun hx hc => List.mem_flatMap.2 ⟨_, List.mem_of_getElem? hx, hc⟩
    cases j with
    | zero =>
      cases k with
      | zero => rfl
      | succ k =>
        simp only [List.getElem?_cons_zero, Option.some.injEq, List.getElem?_cons_succ] at hu hv
        subst hu
        rw [h3 a ha b (later hv hb)] at hab
        cases hab
    | succ j =>
      cases k with
      | zero =>
        simp only [List.getElem?_cons_zero, Option.some.injEq, List.getElem?_cons_succ] at hu hv
        subst hv
        have hab' := nameEq_symm hab
        rw [h3 b hb a (later hu ha)] at hab'
        cases hab'
      | succ k =>
        rw [List.getElem?_cons_succ] at hu hv
        rw [ih h2 hu hv]

theorem catalogWf_unique {cfg : Config} (h : catalogWf cfg = true) {j k : Nat} {u v : Variant} {a b : Name}
    (hu : cfg.catalog[j]? = some u) (hv : cfg.catalog[k]? = some v) (ha : a ∈ u.names) (hb : b ∈ v.names)
    (hab : nameEq a b = true) : j = k := by
  simp only [catalogWf, Bool.and_eq_true] at h
  exact namesDistinct_unique h.2 hu hv ha hb hab

end Sys2Proof.Machine
end

