-- ==== Sys2Proof/Laws/State.lean ====
section
/-! SUPPORT. One lemma per field of State per named update, each true by rfl, so that no proof unfolds a record
update. `construct` writes the calculator only; its fields are given one by one. -/

namespace Sys2Proof.Machine

/-! ### memWrite -/

@[simp] theorem memWrite_cfg (s : State) (a : Nat) (b : Byte) : (memWrite s a b).cfg = s.cfg := rfl
@[simp] theorem memWrite_cmd (s : State) (a : Nat) (b : Byte) : (memWrite s a b).cmd = s.cmd := rfl
@[simp] theorem memWrite_busy (s : State) (a : Nat) (b : Byte) : (memWrite s a b).busy = s.busy := rfl
@[simp] theorem memWrite_haz (s : State) (a : Nat) (b : Byte) : (memWrite s a b).haz = s.haz := rfl
@[simp] theorem memWrite_aerr (s : State) (a : Nat) (b : Byte) : (memWrite s a b).aerr = s.aerr := rfl
@[simp] theorem memWrite_err (s : State) (a : Nat) (b : Byte) : (memWrite s a b).err = s.err := rfl
@[simp] theorem memWrite_result (s : State) (a : Nat) (b : Byte) : (memWrite s a b).result = s.result := rfl
@[simp] theorem memWrite_opa (s : State) (a : Nat) (b : Byte) : (memWrite s a b).opa = s.opa := rfl
@[simp] theorem memWrite_len (s : State) (a : Nat) (b : Byte) : (memWrite s a b).len = s.len := rfl
@[simp] theorem memWrite_nameLen (s : State) (a : Nat) (b : Byte) : (memWrite s a b).nameLen = s.nameLen := rfl
@[simp] theorem memWrite_onameLen (s : State) (a : Nat) (b : Byte) : (memWrite s a b).onameLen = s.onameLen := rfl
@[simp] theorem memWrite_staging (s : State) (a : Nat) (b : Byte) : (memWrite s a b).staging = s.staging := rfl
@[simp] theorem memWrite_act (s : State) (a : Nat) (b : Byte) : (memWrite s a b).act = s.act := rfl
@[simp] theorem memWrite_mem (s : State) (a : Nat) (b : Byte) : (memWrite s a b).mem = s.mem.write a b := rfl
@[simp] theorem memWrite_faults (s : State) (a : Nat) (b : Byte) : (memWrite s a b).faults = s.faults := rfl
@[simp] theorem memWrite_events (s : State) (a : Nat) (b : Byte) : (memWrite s a b).events = s.events := rfl
@[simp] theorem memWrite_reads (s : State) (a : Nat) (b : Byte) : (memWrite s a b).reads = s.reads := rfl
@[simp] theorem memWrite_unseen (s : State) (a : Nat) (b : Byte) : (memWrite s a b).unseen = s.unseen := rfl
@[simp] theorem memWrite_draws (s : State) (a : Nat) (b : Byte) : (memWrite s a b).draws = s.draws := rfl

/-! ### recordFault -/

@[simp] theorem recordFault_cfg (k : Fault) (s : State) : (recordFault k s).cfg = s.cfg := rfl
@[simp] theorem recordFault_cmd (k : Fault) (s : State) : (recordFault k s).cmd = s.cmd := rfl
@[simp] theorem recordFault_busy (k : Fault) (s : State) : (recordFault k s).busy = s.busy := rfl
@[simp] theorem recordFault_haz (k : Fault) (s : State) : (recordFault k s).haz = s.haz := rfl
@[simp] theorem recordFault_aerr (k : Fault) (s : State) : (recordFault k s).aerr = s.aerr := rfl
@[simp] theorem recordFault_err (k : Fault) (s : State) : (recordFault k s).err = s.err := rfl
@[simp] theorem recordFault_result (k : Fault) (s : State) : (recordFault k s).result = s.result := rfl
@[simp] theorem recordFault_opa (k : Fault) (s : State) : (recordFault k s).opa = s.opa := rfl
@[simp] theorem recordFault_len (k : Fault) (s : State) : (recordFault k s).len = s.len := rfl
@[simp] theorem recordFault_nameLen (k : Fault) (s : State) : (recordFault k s).nameLen = s.nameLen := rfl
@[simp] theorem recordFault_onameLen (k : Fault) (s : State) : (recordFault k s).onameLen = s.onameLen := rfl
@[simp] theorem recordFault_staging (k : Fault) (s : State) : (recordFault k s).staging = s.staging := rfl
@[simp] theorem recordFault_act (k : Fault) (s : State) : (recordFault k s).act = s.act := rfl
@[simp] theorem recordFault_mem (k : Fault) (s : State) : (recordFault k s).mem = s.mem := rfl
@[simp] theorem recordFault_faults (k : Fault) (s : State) : (recordFault k s).faults = s.faults.add k := rfl
@[simp] theorem recordFault_events (k : Fault) (s : State) : (recordFault k s).events = s.events := rfl
@[simp] theorem recordFault_reads (k : Fault) (s : State) : (recordFault k s).reads = s.reads := rfl
@[simp] theorem recordFault_unseen (k : Fault) (s : State) : (recordFault k s).unseen = s.unseen := rfl
@[simp] theorem recordFault_draws (k : Fault) (s : State) : (recordFault k s).draws = s.draws := rfl

/-! ### complete -/

@[simp] theorem complete_cfg (code : ErrCode) (s : State) : (complete code s).cfg = s.cfg := rfl
@[simp] theorem complete_cmd (code : ErrCode) (s : State) : (complete code s).cmd = s.cmd := rfl
@[simp] theorem complete_busy (code : ErrCode) (s : State) : (complete code s).busy = false := rfl
@[simp] theorem complete_haz (code : ErrCode) (s : State) : (complete code s).haz = s.haz := rfl
@[simp] theorem complete_aerr (code : ErrCode) (s : State) : (complete code s).aerr = s.aerr := rfl
@[simp] theorem complete_err (code : ErrCode) (s : State) : (complete code s).err = code := rfl
@[simp] theorem complete_result (code : ErrCode) (s : State) : (complete code s).result = s.result := rfl
@[simp] theorem complete_opa (code : ErrCode) (s : State) : (complete code s).opa = s.opa := rfl
@[simp] theorem complete_len (code : ErrCode) (s : State) : (complete code s).len = s.len := rfl
@[simp] theorem complete_nameLen (code : ErrCode) (s : State) : (complete code s).nameLen = s.nameLen := rfl
@[simp] theorem complete_onameLen (code : ErrCode) (s : State) : (complete code s).onameLen = s.onameLen := rfl
@[simp] theorem complete_staging (code : ErrCode) (s : State) : (complete code s).staging = s.staging := rfl
@[simp] theorem complete_act (code : ErrCode) (s : State) : (complete code s).act = s.act := rfl
@[simp] theorem complete_mem (code : ErrCode) (s : State) : (complete code s).mem = s.mem := rfl
@[simp] theorem complete_faults (code : ErrCode) (s : State) : (complete code s).faults = s.faults := rfl
@[simp] theorem complete_events (code : ErrCode) (s : State) : (complete code s).events = s.events := rfl
@[simp] theorem complete_reads (code : ErrCode) (s : State) : (complete code s).reads = s.reads := rfl
@[simp] theorem complete_unseen (code : ErrCode) (s : State) : (complete code s).unseen = s.unseen := rfl
@[simp] theorem complete_draws (code : ErrCode) (s : State) : (complete code s).draws = s.draws := rfl

/-! ### clearValid -/

@[simp] theorem clearValid_cfg (s : State) : (clearValid s).cfg = s.cfg := rfl
@[simp] theorem clearValid_cmd (s : State) : (clearValid s).cmd = s.cmd := rfl
@[simp] theorem clearValid_busy (s : State) : (clearValid s).busy = s.busy := rfl
@[simp] theorem clearValid_haz (s : State) : (clearValid s).haz = s.haz := rfl
@[simp] theorem clearValid_aerr (s : State) : (clearValid s).aerr = s.aerr := rfl
@[simp] theorem clearValid_err (s : State) : (clearValid s).err = s.err := rfl
@[simp] theorem clearValid_result (s : State) : (clearValid s).result = s.result := rfl
@[simp] theorem clearValid_opa (s : State) : (clearValid s).opa = s.opa := rfl
@[simp] theorem clearValid_len (s : State) : (clearValid s).len = s.len := rfl
@[simp] theorem clearValid_nameLen (s : State) : (clearValid s).nameLen = s.nameLen := rfl
@[simp] theorem clearValid_onameLen (s : State) : (clearValid s).onameLen = s.onameLen := rfl
@[simp] theorem clearValid_staging (s : State) : (clearValid s).staging = s.staging := rfl
@[simp] theorem clearValid_act (s : State) : (clearValid s).act = { s.act with valid := false, tvalid := false } := rfl
@[simp] theorem clearValid_mem (s : State) : (clearValid s).mem = s.mem := rfl
@[simp] theorem clearValid_faults (s : State) : (clearValid s).faults = s.faults := rfl
@[simp] theorem clearValid_events (s : State) : (clearValid s).events = s.events := rfl
@[simp] theorem clearValid_reads (s : State) : (clearValid s).reads = s.reads := rfl
@[simp] theorem clearValid_unseen (s : State) : (clearValid s).unseen = s.unseen := rfl
@[simp] theorem clearValid_draws (s : State) : (clearValid s).draws = s.draws := rfl

/-! ### observe -/

@[simp] theorem observe_cfg (v : Word) (s : State) : (observe v s).cfg = s.cfg := rfl
@[simp] theorem observe_cmd (v : Word) (s : State) : (observe v s).cmd = s.cmd := rfl
@[simp] theorem observe_busy (v : Word) (s : State) : (observe v s).busy = s.busy := rfl
@[simp] theorem observe_haz (v : Word) (s : State) : (observe v s).haz = s.haz := rfl
@[simp] theorem observe_aerr (v : Word) (s : State) : (observe v s).aerr = s.aerr := rfl
@[simp] theorem observe_err (v : Word) (s : State) : (observe v s).err = s.err := rfl
@[simp] theorem observe_result (v : Word) (s : State) : (observe v s).result = s.result := rfl
@[simp] theorem observe_opa (v : Word) (s : State) : (observe v s).opa = s.opa := rfl
@[simp] theorem observe_len (v : Word) (s : State) : (observe v s).len = s.len := rfl
@[simp] theorem observe_nameLen (v : Word) (s : State) : (observe v s).nameLen = s.nameLen := rfl
@[simp] theorem observe_onameLen (v : Word) (s : State) : (observe v s).onameLen = s.onameLen := rfl
@[simp] theorem observe_staging (v : Word) (s : State) : (observe v s).staging = s.staging := rfl
@[simp] theorem observe_act (v : Word) (s : State) : (observe v s).act = s.act := rfl
@[simp] theorem observe_mem (v : Word) (s : State) : (observe v s).mem = s.mem := rfl
@[simp] theorem observe_faults (v : Word) (s : State) : (observe v s).faults = s.faults := rfl
@[simp] theorem observe_events (v : Word) (s : State) : (observe v s).events = s.events := rfl
@[simp] theorem observe_reads (v : Word) (s : State) : (observe v s).reads = s.reads ++ [v] := rfl
@[simp] theorem observe_unseen (v : Word) (s : State) : (observe v s).unseen = s.unseen := rfl
@[simp] theorem observe_draws (v : Word) (s : State) : (observe v s).draws = s.draws := rfl

/-! ### drawWord -/

@[simp] theorem drawWord_cfg (s : State) : (drawWord s).cfg = s.cfg := rfl
@[simp] theorem drawWord_cmd (s : State) : (drawWord s).cmd = s.cmd := rfl
@[simp] theorem drawWord_busy (s : State) : (drawWord s).busy = s.busy := rfl
@[simp] theorem drawWord_haz (s : State) : (drawWord s).haz = s.haz := rfl
@[simp] theorem drawWord_aerr (s : State) : (drawWord s).aerr = s.aerr := rfl
@[simp] theorem drawWord_err (s : State) : (drawWord s).err = s.err := rfl
@[simp] theorem drawWord_result (s : State) : (drawWord s).result = s.result := rfl
@[simp] theorem drawWord_opa (s : State) : (drawWord s).opa = s.opa := rfl
@[simp] theorem drawWord_len (s : State) : (drawWord s).len = s.len := rfl
@[simp] theorem drawWord_nameLen (s : State) : (drawWord s).nameLen = s.nameLen := rfl
@[simp] theorem drawWord_onameLen (s : State) : (drawWord s).onameLen = s.onameLen := rfl
@[simp] theorem drawWord_staging (s : State) : (drawWord s).staging = s.staging := rfl
@[simp] theorem drawWord_act (s : State) : (drawWord s).act = s.act := rfl
@[simp] theorem drawWord_mem (s : State) : (drawWord s).mem = s.mem := rfl
@[simp] theorem drawWord_faults (s : State) : (drawWord s).faults = s.faults := rfl
@[simp] theorem drawWord_events (s : State) : (drawWord s).events = s.events := rfl
@[simp] theorem drawWord_reads (s : State) : (drawWord s).reads = s.reads ++ [Config.freeDraw s.draws] := rfl
@[simp] theorem drawWord_unseen (s : State) : (drawWord s).unseen = s.unseen := rfl
@[simp] theorem drawWord_draws (s : State) : (drawWord s).draws = s.draws + 1 := rfl

/-! ### drawByte -/

@[simp] theorem drawByte_cfg (s : State) : (drawByte s).cfg = s.cfg := rfl
@[simp] theorem drawByte_cmd (s : State) : (drawByte s).cmd = s.cmd := rfl
@[simp] theorem drawByte_busy (s : State) : (drawByte s).busy = s.busy := rfl
@[simp] theorem drawByte_haz (s : State) : (drawByte s).haz = s.haz := rfl
@[simp] theorem drawByte_aerr (s : State) : (drawByte s).aerr = s.aerr := rfl
@[simp] theorem drawByte_err (s : State) : (drawByte s).err = s.err := rfl
@[simp] theorem drawByte_result (s : State) : (drawByte s).result = s.result := rfl
@[simp] theorem drawByte_opa (s : State) : (drawByte s).opa = s.opa := rfl
@[simp] theorem drawByte_len (s : State) : (drawByte s).len = s.len := rfl
@[simp] theorem drawByte_nameLen (s : State) : (drawByte s).nameLen = s.nameLen := rfl
@[simp] theorem drawByte_onameLen (s : State) : (drawByte s).onameLen = s.onameLen := rfl
@[simp] theorem drawByte_staging (s : State) : (drawByte s).staging = s.staging := rfl
@[simp] theorem drawByte_act (s : State) : (drawByte s).act = s.act := rfl
@[simp] theorem drawByte_mem (s : State) : (drawByte s).mem = s.mem := rfl
@[simp] theorem drawByte_faults (s : State) : (drawByte s).faults = s.faults := rfl
@[simp] theorem drawByte_events (s : State) : (drawByte s).events = s.events := rfl
@[simp] theorem drawByte_reads (s : State) : (drawByte s).reads = s.reads ++ [((Config.freeDraw s.draws).setWidth 8).setWidth 64] := rfl
@[simp] theorem drawByte_unseen (s : State) : (drawByte s).unseen = s.unseen := rfl
@[simp] theorem drawByte_draws (s : State) : (drawByte s).draws = s.draws + 1 := rfl

/-! ### accessError -/

@[simp] theorem accessError_cfg (s : State) : (accessError s).cfg = s.cfg := rfl
@[simp] theorem accessError_cmd (s : State) : (accessError s).cmd = s.cmd := rfl
@[simp] theorem accessError_busy (s : State) : (accessError s).busy = s.busy := rfl
@[simp] theorem accessError_haz (s : State) : (accessError s).haz = s.haz := rfl
@[simp] theorem accessError_aerr (s : State) : (accessError s).aerr = true := rfl
@[simp] theorem accessError_err (s : State) : (accessError s).err = s.err := rfl
@[simp] theorem accessError_result (s : State) : (accessError s).result = s.result := rfl
@[simp] theorem accessError_opa (s : State) : (accessError s).opa = s.opa := rfl
@[simp] theorem accessError_len (s : State) : (accessError s).len = s.len := rfl
@[simp] theorem accessError_nameLen (s : State) : (accessError s).nameLen = s.nameLen := rfl
@[simp] theorem accessError_onameLen (s : State) : (accessError s).onameLen = s.onameLen := rfl
@[simp] theorem accessError_staging (s : State) : (accessError s).staging = s.staging := rfl
@[simp] theorem accessError_act (s : State) : (accessError s).act = s.act := rfl
@[simp] theorem accessError_mem (s : State) : (accessError s).mem = s.mem := rfl
@[simp] theorem accessError_faults (s : State) : (accessError s).faults = s.faults.add .aerr := rfl
@[simp] theorem accessError_events (s : State) : (accessError s).events = s.events := rfl
@[simp] theorem accessError_reads (s : State) : (accessError s).reads = s.reads := rfl
@[simp] theorem accessError_unseen (s : State) : (accessError s).unseen = s.unseen := rfl
@[simp] theorem accessError_draws (s : State) : (accessError s).draws = s.draws := rfl

/-! ### hazard -/

@[simp] theorem hazard_cfg (s : State) : (hazard s).cfg = s.cfg := rfl
@[simp] theorem hazard_cmd (s : State) : (hazard s).cmd = s.cmd := rfl
@[simp] theorem hazard_busy (s : State) : (hazard s).busy = s.busy := rfl
@[simp] theorem hazard_haz (s : State) : (hazard s).haz = true := rfl
@[simp] theorem hazard_aerr (s : State) : (hazard s).aerr = s.aerr := rfl
@[simp] theorem hazard_err (s : State) : (hazard s).err = s.err := rfl
@[simp] theorem hazard_result (s : State) : (hazard s).result = s.result := rfl
@[simp] theorem hazard_opa (s : State) : (hazard s).opa = s.opa := rfl
@[simp] theorem hazard_len (s : State) : (hazard s).len = s.len := rfl
@[simp] theorem hazard_nameLen (s : State) : (hazard s).nameLen = s.nameLen := rfl
@[simp] theorem hazard_onameLen (s : State) : (hazard s).onameLen = s.onameLen := rfl
@[simp] theorem hazard_staging (s : State) : (hazard s).staging = s.staging := rfl
@[simp] theorem hazard_act (s : State) : (hazard s).act = s.act := rfl
@[simp] theorem hazard_mem (s : State) : (hazard s).mem = s.mem := rfl
@[simp] theorem hazard_faults (s : State) : (hazard s).faults = s.faults.add .haz := rfl
@[simp] theorem hazard_events (s : State) : (hazard s).events = s.events := rfl
@[simp] theorem hazard_reads (s : State) : (hazard s).reads = s.reads := rfl
@[simp] theorem hazard_unseen (s : State) : (hazard s).unseen = s.unseen := rfl
@[simp] theorem hazard_draws (s : State) : (hazard s).draws = s.draws := rfl

/-! ### construct -/

@[simp] theorem construct_cfg (w : Nat) (p i x : Word) (ri ro : Bool) (c : Word) (k : BitVec 8) (s : State) :
    (construct w p i x ri ro c k s).cfg = s.cfg := rfl
@[simp] theorem construct_cmd (w : Nat) (p i x : Word) (ri ro : Bool) (c : Word) (k : BitVec 8) (s : State) :
    (construct w p i x ri ro c k s).cmd = s.cmd := rfl
@[simp] theorem construct_busy (w : Nat) (p i x : Word) (ri ro : Bool) (c : Word) (k : BitVec 8) (s : State) :
    (construct w p i x ri ro c k s).busy = s.busy := rfl
@[simp] theorem construct_haz (w : Nat) (p i x : Word) (ri ro : Bool) (c : Word) (k : BitVec 8) (s : State) :
    (construct w p i x ri ro c k s).haz = s.haz := rfl
@[simp] theorem construct_aerr (w : Nat) (p i x : Word) (ri ro : Bool) (c : Word) (k : BitVec 8) (s : State) :
    (construct w p i x ri ro c k s).aerr = s.aerr := rfl
@[simp] theorem construct_err (w : Nat) (p i x : Word) (ri ro : Bool) (c : Word) (k : BitVec 8) (s : State) :
    (construct w p i x ri ro c k s).err = s.err := rfl
@[simp] theorem construct_result (w : Nat) (p i x : Word) (ri ro : Bool) (c : Word) (k : BitVec 8) (s : State) :
    (construct w p i x ri ro c k s).result = s.result := rfl
@[simp] theorem construct_opa (w : Nat) (p i x : Word) (ri ro : Bool) (c : Word) (k : BitVec 8) (s : State) :
    (construct w p i x ri ro c k s).opa = s.opa := rfl
@[simp] theorem construct_len (w : Nat) (p i x : Word) (ri ro : Bool) (c : Word) (k : BitVec 8) (s : State) :
    (construct w p i x ri ro c k s).len = s.len := rfl
@[simp] theorem construct_nameLen (w : Nat) (p i x : Word) (ri ro : Bool) (c : Word) (k : BitVec 8) (s : State) :
    (construct w p i x ri ro c k s).nameLen = s.nameLen := rfl
@[simp] theorem construct_onameLen (w : Nat) (p i x : Word) (ri ro : Bool) (c : Word) (k : BitVec 8) (s : State) :
    (construct w p i x ri ro c k s).onameLen = s.onameLen := rfl
@[simp] theorem construct_staging (w : Nat) (p i x : Word) (ri ro : Bool) (c : Word) (k : BitVec 8) (s : State) :
    (construct w p i x ri ro c k s).staging = s.staging := rfl
@[simp] theorem construct_mem (w : Nat) (p i x : Word) (ri ro : Bool) (c : Word) (k : BitVec 8) (s : State) :
    (construct w p i x ri ro c k s).mem = s.mem := rfl
@[simp] theorem construct_faults (w : Nat) (p i x : Word) (ri ro : Bool) (c : Word) (k : BitVec 8) (s : State) :
    (construct w p i x ri ro c k s).faults = s.faults := rfl
@[simp] theorem construct_events (w : Nat) (p i x : Word) (ri ro : Bool) (c : Word) (k : BitVec 8) (s : State) :
    (construct w p i x ri ro c k s).events = s.events := rfl
@[simp] theorem construct_reads (w : Nat) (p i x : Word) (ri ro : Bool) (c : Word) (k : BitVec 8) (s : State) :
    (construct w p i x ri ro c k s).reads = s.reads := rfl
@[simp] theorem construct_unseen (w : Nat) (p i x : Word) (ri ro : Bool) (c : Word) (k : BitVec 8) (s : State) :
    (construct w p i x ri ro c k s).unseen = s.unseen := rfl
@[simp] theorem construct_draws (w : Nat) (p i x : Word) (ri ro : Bool) (c : Word) (k : BitVec 8) (s : State) :
    (construct w p i x ri ro c k s).draws = s.draws := rfl
@[simp] theorem construct_act_width (w : Nat) (p i x : Word) (ri ro : Bool) (c : Word) (k : BitVec 8) (s : State) :
    (construct w p i x ri ro c k s).act.width = BitVec.ofNat 64 w := rfl
@[simp] theorem construct_act_poly (w : Nat) (p i x : Word) (ri ro : Bool) (c : Word) (k : BitVec 8) (s : State) :
    (construct w p i x ri ro c k s).act.poly = p &&& mask w := rfl
@[simp] theorem construct_act_init (w : Nat) (p i x : Word) (ri ro : Bool) (c : Word) (k : BitVec 8) (s : State) :
    (construct w p i x ri ro c k s).act.init = i &&& mask w := rfl
@[simp] theorem construct_act_xorOut (w : Nat) (p i x : Word) (ri ro : Bool) (c : Word) (k : BitVec 8) (s : State) :
    (construct w p i x ri ro c k s).act.xorOut = x &&& mask w := rfl
@[simp] theorem construct_act_check (w : Nat) (p i x : Word) (ri ro : Bool) (c : Word) (k : BitVec 8) (s : State) :
    (construct w p i x ri ro c k s).act.check = c &&& mask w := rfl
@[simp] theorem construct_act_mask (w : Nat) (p i x : Word) (ri ro : Bool) (c : Word) (k : BitVec 8) (s : State) :
    (construct w p i x ri ro c k s).act.mask = mask w := rfl
@[simp] theorem construct_act_highBit (w : Nat) (p i x : Word) (ri ro : Bool) (c : Word) (k : BitVec 8) (s : State) :
    (construct w p i x ri ro c k s).act.highBit = highBit w := rfl
@[simp] theorem construct_act_refIn (w : Nat) (p i x : Word) (ri ro : Bool) (c : Word) (k : BitVec 8) (s : State) :
    (construct w p i x ri ro c k s).act.refIn = ri := rfl
@[simp] theorem construct_act_refOut (w : Nat) (p i x : Word) (ri ro : Bool) (c : Word) (k : BitVec 8) (s : State) :
    (construct w p i x ri ro c k s).act.refOut = ro := rfl
@[simp] theorem construct_act_valid (w : Nat) (p i x : Word) (ri ro : Bool) (c : Word) (k : BitVec 8) (s : State) :
    (construct w p i x ri ro c k s).act.valid = true := rfl
@[simp] theorem construct_act_tvalid (w : Nat) (p i x : Word) (ri ro : Bool) (c : Word) (k : BitVec 8) (s : State) :
    (construct w p i x ri ro c k s).act.tvalid = decide (w > tableThreshold) := rfl
@[simp] theorem construct_act_index (w : Nat) (p i x : Word) (ri ro : Bool) (c : Word) (k : BitVec 8) (s : State) :
    (construct w p i x ri ro c k s).act.index = k := rfl
@[simp] theorem construct_act_table (w : Nat) (p i x : Word) (ri ro : Bool) (c : Word) (k : BitVec 8) (s : State) :
    (construct w p i x ri ro c k s).act.table = if w > tableThreshold then buildTable w (p &&& mask w) ri else s.act.table := rfl

/-! ### The fault record -/

theorem FaultSet.has_add (f : FaultSet) (k j : Fault) : (f.add k).has j = (f.has j || decide (j = k)) := by
  cases k <;> cases j <;> simp [FaultSet.add, FaultSet.has]

end Sys2Proof.Machine
end

