-- ==== Sys2Proof/Laws/Exec.lean ====
section
/-! SUPPORT. For each meaning and each shared operation under it, one lemma that says everything it can do. -/

namespace Sys2Proof.Machine

/-- The message operand: LEN bytes of BUF, each of them written. -/
theorem messageBytes_eq_some (s : State) (bytes : List Byte) :
    messageBytes s = some bytes ↔
      bytes.length = s.len.toNat ∧ ∀ i, i < s.len.toNat → s.mem.read (bufBase + i) = bytes[i]? :=
  Memory.readBytes_eq_some s.mem bufBase s.len.toNat bytes

theorem messageBytes_eq_none (s : State) :
    messageBytes s = none ↔ ∃ i, i < s.len.toNat ∧ s.mem.read (bufBase + i) = none :=
  Memory.readBytes_eq_none s.mem bufBase s.len.toNat

/-- The name operand: NAME_LEN bytes of NAME, each of them written. -/
theorem queryBytes_eq_some (s : State) (q : Name) :
    queryBytes s = some q ↔
      q.length = s.nameLen.toNat ∧ ∀ i, i < s.nameLen.toNat → s.mem.read (nameBase + i) = q[i]? :=
  Memory.readBytes_eq_some s.mem nameBase s.nameLen.toNat q

theorem queryBytes_eq_none (s : State) :
    queryBytes s = none ↔ ∃ i, i < s.nameLen.toNat ∧ s.mem.read (nameBase + i) = none :=
  Memory.readBytes_eq_none s.mem nameBase s.nameLen.toNat

/-- Construct loads a record of a well-formed catalogue with its parameters as they stand. -/
theorem construct_wf_variant {cfg : Config} (h : catalogWf cfg = true) {v : Variant} (hv : v ∈ cfg.catalog)
    (k : BitVec 8) (s : State) :
    (construct v.width v.poly v.init v.xorOut v.refIn v.refOut v.checkValue k s).act.params = variantParams v ∧
      (construct v.width v.poly v.init v.xorOut v.refIn v.refOut v.checkValue k s).act.check = v.checkValue := by
  obtain ⟨⟨h1, h2⟩, ⟨hp, hi, hx, hc⟩, -⟩ := catalogWf_variant h hv
  have hw : (BitVec.ofNat 64 v.width).toNat = v.width := by
    rw [BitVec.toNat_ofNat]; exact Nat.mod_eq_of_lt (by omega)
  refine ⟨?_, ?_⟩
  · simp only [Calculator.params, construct_act_width, construct_act_poly, construct_act_init, construct_act_xorOut,
      construct_act_refIn, construct_act_refOut, variantParams, hw, and_mask_eq_self _ _ h1 h2 hp,
      and_mask_eq_self _ _ h1 h2 hi, and_mask_eq_self _ _ h1 h2 hx]
  · rw [construct_act_check, and_mask_eq_self _ _ h1 h2 hc]

/-- What the shared end of CALC, CALCT and CALCD can do. -/
theorem calculateMessage_cases (engine : List Byte → Word) (s : State) :
    (s.cfg.bufSize < s.len.toNat ∧ calculateMessage engine s = .next (complete .lenRange s)) ∨
    (s.len.toNat ≤ s.cfg.bufSize ∧ messageBytes s = none ∧
      calculateMessage engine s = .next { recordFault .uninit s with busy := false }) ∨
    (∃ bytes, s.len.toNat ≤ s.cfg.bufSize ∧ messageBytes s = some bytes ∧
      calculateMessage engine s = .next (complete .ok { s with result := engine bytes })) := by
  unfold calculateMessage lenOutOfRange
  by_cases h : s.cfg.bufSize < s.len.toNat
  · exact .inl ⟨h, by simp [h, raiseErr]⟩
  · cases hm : messageBytes s with
    | none => exact .inr (.inl ⟨by omega, rfl, by simp [h, raiseFault]⟩)
    | some bytes => exact .inr (.inr ⟨bytes, by omega, rfl, by simp [h]⟩)

/-- What CFG can do. -/
theorem execCfg_cases (s : State) :
    ((s.staging.width.toNat < 1 ∨ 64 < s.staging.width.toNat) ∧
      execCfg s = .next (complete .badWidth (clearValid s))) ∨
    ((1 ≤ s.staging.width.toNat ∧ s.staging.width.toNat ≤ 64) ∧
      execCfg s = .next (complete .ok (construct s.staging.width.toNat s.staging.poly s.staging.init s.staging.xorOut
        s.staging.refIn s.staging.refOut s.staging.check 0xFF s))) := by
  by_cases h : s.staging.width.toNat < 1 ∨ 64 < s.staging.width.toNat
  · exact .inl ⟨h, by simp only [execCfg, if_pos h, raiseErr]⟩
  · exact .inr ⟨by omega, by simp only [execCfg, if_neg h]⟩

/-- What LOOKUP can do. -/
theorem execLookup_cases (s : State) :
    (s.cfg.nameMax < s.nameLen.toNat ∧ execLookup s = .next (complete .nameRange (clearValid s))) ∨
    (s.nameLen.toNat ≤ s.cfg.nameMax ∧ queryBytes s = none ∧
      execLookup s = .next { recordFault .uninit s with busy := false }) ∨
    (∃ q, s.nameLen.toNat ≤ s.cfg.nameMax ∧ queryBytes s = some q ∧ findVariant q 0 s.cfg.catalog = none ∧
      execLookup s = .next (complete .notFound (clearValid s))) ∨
    (∃ q k v, s.nameLen.toNat ≤ s.cfg.nameMax ∧ queryBytes s = some q ∧
      findVariant q 0 s.cfg.catalog = some (k, v) ∧
      execLookup s = .next (complete .ok (construct v.width v.poly v.init v.xorOut v.refIn v.refOut v.checkValue
        (BitVec.ofNat 8 k) s))) := by
  unfold execLookup nameOutOfRange
  by_cases h : s.cfg.nameMax < s.nameLen.toNat
  · exact .inl ⟨h, by simp [h, raiseErr]⟩
  · have h' : s.nameLen.toNat ≤ s.cfg.nameMax := by omega
    cases hq : queryBytes s with
    | none => exact .inr (.inl ⟨h', rfl, by simp [h, raiseFault]⟩)
    | some q =>
      cases hf : findVariant q 0 s.cfg.catalog with
      | none => exact .inr (.inr (.inl ⟨q, h', rfl, hf, by simp [h, hf, raiseErr]⟩))
      | some kv => exact .inr (.inr (.inr ⟨q, kv.1, kv.2, h', rfl, hf, by simp [h, hf]⟩))

/-- What ENUM can do. -/
theorem execEnum_cases (k : Nat) (s : State) :
    (s.cfg.catalog.length ≤ k ∧ execEnum k s = .next (complete .indexRange s)) ∨
    (∃ v, s.cfg.catalog[k]? = some v ∧
      execEnum k s = .next (complete .ok
        { s with mem := s.mem.writeBytes onameBase (paddedName s.cfg.nameMax v.canonicalName),
                 onameLen := BitVec.ofNat 64 v.canonicalName.length })) := by
  cases hv : s.cfg.catalog[k]? with
  | none => exact .inl ⟨List.getElem?_eq_none_iff.1 hv, by simp [execEnum, hv, raiseErr]⟩
  | some v => exact .inr ⟨v, rfl, by simp [execEnum, hv]⟩

/-- What REFLECT can do. -/
theorem execReflect_cases (w : Nat) (s : State) :
    ((w < 1 ∨ 64 < w) ∧ execReflect w s = .next (complete .badWidth s)) ∨
    ((1 ≤ w ∧ w ≤ 64) ∧ execReflect w s = .next (complete .ok { s with result := reflect s.opa w })) := by
  by_cases h : w < 1 ∨ 64 < w
  · exact .inl ⟨h, by simp only [execReflect, if_pos h, raiseErr]⟩
  · exact .inr ⟨by omega, by simp only [execReflect, if_neg h]⟩

/-- CALC, CALCT, CALCD and CHECK without a calculator. -/
theorem calculations_without_calculator (s : State) (h : s.act.valid = false) :
    execCalc s = .next (complete .noCalc s) ∧ execCalct s = .next (complete .noCalc s) ∧
      execCalcd s = .next (complete .noCalc s) ∧ execCheck s = .next (complete .noCalc s) := by
  simp [execCalc, execCalct, execCalcd, execCheck, h, raiseErr]

theorem execCalc_valid (s : State) (h : s.act.valid = true) :
    execCalc s = calculateMessage (dispatchCrc s.act.params s.act.table) s := by simp [execCalc, h]

theorem execCalcd_valid (s : State) (h : s.act.valid = true) :
    execCalcd s = calculateMessage (directCrc s.act.params) s := by simp [execCalcd, h]

theorem execCalct_narrow (s : State) (h : s.act.valid = true) (hw : s.act.width.toNat ≤ 7) :
    execCalct s = .next (complete .tableNarrow s) := by simp [execCalct, h, hw, raiseErr]

theorem execCalct_wide (s : State) (h : s.act.valid = true) (hw : 7 < s.act.width.toNat) :
    execCalct s = calculateMessage (tableCrc s.act.params s.act.table) s := by
  simp [execCalct, h, Nat.not_le.2 hw]

/-- CHECK with a calculator. -/
theorem execCheck_valid (s : State) (h : s.act.valid = true) :
    execCheck s = .next (complete
      (if dispatchCrc s.act.params s.act.table kat = s.act.check then .ok else .checkMismatch)
      { s with result := dispatchCrc s.act.params s.act.table kat }) := by simp [execCheck, h]

end Sys2Proof.Machine
end

