-- ==== Sys2Proof/Laws/Host.lean ====
section
/-! SUPPORT. What the HOST's transactions and one step can do. -/

namespace Sys2Proof.Machine

@[simp] theorem regAt_regOffset (r : Reg) : regAt (regOffset r) = some r := by cases r <;> rfl

theorem regOffset_of_regAt {a : Nat} {r : Reg} (h : regAt a = some r) : regOffset r = a := by
  simpa using List.find?_some h

theorem regOffset_lt (r : Reg) : regOffset r ≤ 0xB8 := by cases r <;> decide

theorem regOffset_injective {r r' : Reg} (h : regOffset r = regOffset r') : r = r' := by
  have := regAt_regOffset r
  rw [h, regAt_regOffset] at this
  exact (Option.some.inj this).symm

/-- What a host read can do (R226). -/
theorem hostRead_cases (a n : Nat) (s : State) :
    (readTarget s a n = none ∧ hostRead a n s = observe 0 (accessError s)) ∨
    (∃ t, readTarget s a n = some t ∧ s.busy = true ∧ hostRead a n s = readBusy t s) ∨
    (∃ t, readTarget s a n = some t ∧ s.busy = false ∧ hostRead a n s = readIdle t s) := by
  unfold hostRead
  cases ht : readTarget s a n with
  | none => exact .inl ⟨rfl, rfl⟩
  | some t =>
    cases hb : s.busy with
    | true => exact .inr (.inl ⟨t, rfl, rfl, by simp⟩)
    | false => exact .inr (.inr ⟨t, rfl, rfl, by simp⟩)

/-- What a host write can do (R226). -/
theorem hostWrite_cases (a n : Nat) (v : Word) (s : State) :
    (writeTarget s a n = none ∧ hostWrite a n v s = accessError s) ∨
    (∃ t, writeTarget s a n = some t ∧ s.busy = true ∧ hostWrite a n v s = hazard s) ∨
    (∃ t, writeTarget s a n = some t ∧ s.busy = false ∧ hostWrite a n v s = store t v s) := by
  unfold hostWrite
  cases ht : writeTarget s a n with
  | none => exact .inl ⟨rfl, rfl⟩
  | some t =>
    cases hb : s.busy with
    | true => exact .inr (.inl ⟨t, rfl, rfl, by simp⟩)
    | false => exact .inr (.inr ⟨t, rfl, rfl, by simp⟩)

/-- A read of a stored value only appends what it returns, and counts the draw if there is one. -/
theorem readStored_shape (t : Target) (s : State) :
    ∃ v d, readStored t s = { s with reads := s.reads ++ [v], draws := d } := by
  cases t with
  | reg r => exact ⟨_, s.draws, rfl⟩
  | tableEntry i => exact ⟨_, s.draws, rfl⟩
  | nameByte i => simp only [readStored, readStoredByte]; split <;> exact ⟨_, _, rfl⟩
  | onameByte i => simp only [readStored, readStoredByte]; split <;> exact ⟨_, _, rfl⟩
  | bufByte i => simp only [readStored, readStoredByte]; split <;> exact ⟨_, _, rfl⟩

/-- A free read only appends what it returns, and counts the draw. -/
theorem drawAt_shape (t : Target) (s : State) :
    ∃ v, drawAt t s = { s with reads := s.reads ++ [v], draws := s.draws + 1 } := by
  cases t <;> exact ⟨_, rfl⟩

/-- An idle read appends what it returns, counts the draw if there is one, and, of STATUS, clears `unseen`. -/
theorem readIdle_shape (t : Target) (s : State) :
    ∃ v d, readIdle t s = { s with
      reads := s.reads ++ [v], draws := d, unseen := if t = .reg .status then false else s.unseen } := by
  obtain ⟨v, d, hs⟩ := readStored_shape t s
  obtain ⟨v', hd⟩ := drawAt_shape t s
  unfold readIdle
  split
  · rename_i h
    have ht : t ≠ .reg .status := by rintro rfl; simp [commandOutput, outputReg] at h
    exact ⟨v', s.draws + 1, by rw [hd, if_neg ht]⟩
  · split
    · exact ⟨v, d, by rw [hs]⟩
    · exact ⟨v, d, by rw [hs]⟩

/-- A busy read only appends what it returns, and counts the draw if there is one. -/
theorem readBusy_shape (t : Target) (s : State) :
    ∃ v d, readBusy t s = { s with reads := s.reads ++ [v], draws := d } := by
  unfold readBusy
  split
  · exact readStored_shape t s
  · obtain ⟨v, h⟩ := drawAt_shape t s
    exact ⟨v, _, h⟩

/-- What an idle read returns is the stored value, unless it is a command's outcome the HOST has yet to see. -/
theorem readIdle_seen (t : Target) (s : State) (h : s.unseen = false ∨ commandOutput t = false)
    (ht : t ≠ .reg .status) : readIdle t s = readStored t s := by
  have : (s.unseen && commandOutput t) = false := by rcases h with h | h <;> simp [h]
  simp [readIdle, this, ht]

theorem readIdle_unseen (t : Target) (s : State) (h : s.unseen = true) (ht : commandOutput t = true) :
    readIdle t s = drawAt t s := by simp [readIdle, h, ht]

/-- The target of a well-formed write is what the map resolves, and may be written. -/
theorem writeTarget_eq_some {s : State} {a n : Nat} {t : Target} :
    writeTarget s a n = some t ↔ resolve s.cfg a n = some t ∧ writable t = true := by
  simp [writeTarget, Option.filter_eq_some_iff]

theorem readTarget_eq_some {s : State} {a n : Nat} {t : Target} :
    readTarget s a n = some t ↔ resolve s.cfg a n = some t ∧ readable s t = true := by
  simp [readTarget, Option.filter_eq_some_iff]

/-- What one step does, by the next event. -/
theorem step_nil (s : State) (h : s.events = []) :
    step s = if s.busy then engineStep s else .next s := by
  unfold step; rw [h]; rfl

theorem step_cons (s : State) {e : Event} {rest : List Event} (h : s.events = e :: rest) :
    step s = applyEvent e { s with events := rest } := by
  unfold step; rw [h]

@[simp] theorem withFetchWord_events (s : State) (n w : Nat) :
    (s.withFetchWord n w).events = .engine :: s.events := rfl
@[simp] theorem withFetchWord_busy (s : State) (n w : Nat) : (s.withFetchWord n w).busy = true := rfl
@[simp] theorem withFetchWord_unseen (s : State) (n w : Nat) : (s.withFetchWord n w).unseen = true := rfl
@[simp] theorem withFetchWord_cmd (s : State) (n w : Nat) :
    (s.withFetchWord n w).cmd = BitVec.ofNat 64 (w % 2 ^ n) := rfl

end Sys2Proof.Machine
end

