-- ==== Sys2Proof/Laws/PerInstr.lean ====
section
/-! SUPPORT. The family `WordFields`: the word of a well-formed command has its opcode in OPC and zeros in RSV
(spec/30_encoding.md R90, R92), one lemma per constructor. -/

namespace Sys2Proof.Laws.WordFields

/-- OPC holds the opcode of R92 and RSV is 0. -/
def Statement (i : Instr) : Prop := i.wf = true → opcField (encode i) = opcode i ∧ rsvField (encode i) = 0

theorem cfg : Statement .cfg := fun _ => by decide
theorem lookup : Statement .lookup := fun _ => by decide
theorem calculate : Statement .calculate := fun _ => by decide
theorem calct : Statement .calct := fun _ => by decide
theorem calcd : Statement .calcd := fun _ => by decide
theorem check : Statement .check := fun _ => by decide

theorem enum (idx : Nat) : Statement (.enum idx) := by
  intro h
  have h : idx ≤ 255 := by simpa [Instr.wf] using h
  interval_cases idx <;> decide

theorem reflect (w : Nat) : Statement (.reflect w) := by
  intro h
  have h : w ≤ 127 := by simpa [Instr.wf] using h
  interval_cases w <;> decide

end Sys2Proof.Laws.WordFields
end

