-- ==== Sys2Proof/Laws/Safety.lean ====
section
/-! SUPPORT. Construct establishes the invariant of the active calculator (spec/42_construct_table.md R132). -/

namespace Sys2Proof.Machine

/-- "It establishes the invariant of 10_state.md rule R39" (R132). -/
theorem construct_calcInv (w : Nat) (poly init xo : Word) (ri ro : Bool) (chk : Word) (idx : BitVec 8) (s : State)
    (h1 : 1 ≤ w) (h2 : w ≤ 64) : CalcInv (construct w poly init xo ri ro chk idx s).act := by
  have hw : (BitVec.ofNat 64 w).toNat = w := by
    rw [BitVec.toNat_ofNat]; exact Nat.mod_eq_of_lt (by omega)
  have hle : ∀ v : Word, (v &&& mask w).toNat ≤ (mask w).toNat :=
    fun v => by rw [BitVec.toNat_and]; exact Nat.and_le_right
  refine ⟨fun _ => ?_, by simp⟩
  simp only [construct_act_width, hw, construct_act_mask, construct_act_highBit, construct_act_poly,
    construct_act_init, construct_act_xorOut, construct_act_check, construct_act_tvalid, construct_act_table,
    construct_act_refIn]
  refine ⟨⟨h1, h2⟩, ⟨trivial, trivial⟩, ⟨hle _, hle _, hle _, hle _⟩, by simp [tableThreshold], fun h => ?_⟩
  rw [if_pos (by simpa using h)]

end Sys2Proof.Machine
end

