-- ==== Sys2Proof/Machine/Assembler.lean ====
section
/-! DEFINITION. The assembler syntax of a command (spec/30_encoding.md R96): the mnemonic, followed for ENUM and
REFLECT by one unsigned decimal or `0x` hexadecimal operand. -/

namespace Sys2Proof.Machine

/-- The words of a line, split at spaces; empty words are dropped below. -/
def splitSpaces : List Char → List (List Char)
  | [] => []
  | c :: cs =>
    if c = ' ' then [] :: splitSpaces cs
    else
      match splitSpaces cs with
      | [] => [[c]]
      | t :: ts => (c :: t) :: ts

/-- The value of a digit in a base up to 16; hexadecimal letters of either case (assumption log 10). -/
def digitValue (base : Nat) (c : Char) : Option Nat :=
  let n := c.toNat
  let d :=
    if 48 ≤ n ∧ n ≤ 57 then some (n - 48)
    else if 65 ≤ n ∧ n ≤ 70 then some (n - 55)
    else if 97 ≤ n ∧ n ≤ 102 then some (n - 87)
    else none
  d.filter fun v => v < base

/-- Digits, most significant first, onto an accumulator. -/
def digitsValue (base : Nat) : Nat → List Char → Option Nat
  | acc, [] => some acc
  | acc, c :: cs =>
    match digitValue base c with
    | some d => digitsValue base (acc * base + d) cs
    | none => none

/-- An operand of R96: unsigned decimal, or hexadecimal after `0x`. -/
def operandValue : List Char → Option Nat
  | [] => none
  | ['0', 'x'] => none
  | '0' :: 'x' :: ds => digitsValue 16 0 ds
  | ds => digitsValue 10 0 ds

/-- The command of a line of assembler text, if it is one with an encoding: "An out-of-range operand is an
assembly error, not an encoding" (R96). -/
def assembleInstr (line : String) : Option Instr :=
  let i :=
    match (splitSpaces line.toList).filter (fun t => !t.isEmpty) with
    | [m] => [Instr.cfg, .lookup, .calculate, .calct, .calcd, .check].find? fun i => (mnemonic i).toList == m
    | [m, n] =>
      if m = "ENUM".toList then (operandValue n).map Instr.enum
      else if m = "REFLECT".toList then (operandValue n).map Instr.reflect
      else none
    | _ => none
  i.filter Instr.wf

/-- The word a line of assembler text stands for (R96). -/
def assemble (line : String) : Option Word := (assembleInstr line).map encode

end Sys2Proof.Machine
end

