-- ==== Sys2Proof/Machine/HostProgram.lean ====
section
/-! DEFINITION. The HOST's notation (spec/30_encoding.md R97), the source's four interface calls as expansions
into host transactions (R98), and the whole-catalogue self-test (spec/46_selftest.md R171). Each is a list of
events to put into `State.events`. They are host software: the block knows only the transactions. -/

namespace Sys2Proof.Machine

/-- The byte regions of R97. -/
inductive ByteRegion where
  | name | oname | buf
  deriving DecidableEq, Repr

/-- `base(region)` (R97). -/
def regionBase : ByteRegion → Nat
  | .name => nameBase
  | .oname => onameBase
  | .buf => bufBase

/-- `WR reg, v`. -/
def wr (r : Reg) (v : Word) : Event := .write (regOffset r) 8 v

/-- `RD reg`. -/
def rd (r : Reg) : Event := .read (regOffset r) 8

/-- `WB region[i], byte`. -/
def wb (g : ByteRegion) (i : Nat) (b : Byte) : Event := .write (regionBase g + i) 1 (b.setWidth 64)

/-- `RB region[i]`. -/
def rb (g : ByteRegion) (i : Nat) : Event := .read (regionBase g + i) 1

/-- `RT i`. -/
def rt (i : Nat) : Event := .read (tableBase + 8 * i) 8

/-- `WB region[i..], bytes`: one WB a byte, at consecutive indices. -/
def wbAll (g : ByteRegion) : Nat → List Byte → List Event
  | _, [] => []
  | i, b :: bs => wb g i b :: wbAll g (i + 1) bs

/-- `RB region[0..n-1]`. -/
def rbAll (g : ByteRegion) (n : Nat) : List Event := (List.range n).map (rb g)

/-- `WAIT`, "repeat RD STATUS until bit 0 = 0", in the run in which the host polls `polls` times before the
ENGINE takes its step: a number no rule bounds (R224, R232). -/
def wait (polls : Nat) : List Event := List.replicate polls (rd .status) ++ [.engine, rd .status]

/-- `X command`: WR CMD, then WAIT. -/
def issue (polls : Nat) (i : Instr) : List Event := wr .cmd (encode i) :: wait polls

/-- `GetCRCAlgorithm(name)` (R98): found iff the last STATUS read has ERR = 0. -/
def getCrcAlgorithm (polls : Nat) (name : Name) : List Event :=
  wbAll .name 0 name ++ wr .nameLen (BitVec.ofNat 64 name.length) :: issue polls .lookup

/-- `Calculator.CalculateCRC(buffer, length)` (R98): the last value read is the result. R98 asks for length ≤ buffer
size. DESIGN CHOICE (assumption log 18): with a length greater than the caller's buffer the bytes there are written, and
LEN is the length as given. -/
def calculateCrc (polls : Nat) (buffer : List Byte) (length : Nat) : List Event :=
  wbAll .buf 0 (buffer.take length) ++ wr .len (BitVec.ofNat 64 length) :: (issue polls .calculate ++ [rd .result])

/-- `Calculator.CalculateCRC(text)` (R98): the host encodes the text as ASCII bytes. DESIGN CHOICE (assumption log
16): a character outside ASCII, for which the spec gives no byte, becomes its code point modulo 256. -/
def calculateCrcText (polls : Nat) (text : String) : List Event :=
  calculateCrc polls (ascii text) (ascii text).length

/-- `X ENUM k; RD ONAME_LEN; RB ONAME[0..ONAME_LEN-1]` for one entry (R98). -/
def enumerateEntry (polls k : Nat) (v : Variant) : List Event :=
  issue polls (.enum k) ++ rd .onameLen :: rbAll .oname v.canonicalName.length

/-- `AllCRCMethods()` from entry k on (R98): every canonical name in catalogue order. DESIGN CHOICE (assumption log
17): the number of polls, which R224 and R232 leave open for each command, is the same in every WAIT. -/
def allCrcMethods (polls : Nat) : Nat → List Variant → List Event
  | _, [] => []
  | k, v :: vs => enumerateEntry polls k v ++ allCrcMethods polls (k + 1) vs

/-- The whole-catalogue self-test from entry k on (R171): ENUM k, copy ONAME into NAME, LOOKUP, CHECK; the last
STATUS read of each round has ERR = 0 iff the entry passes. DESIGN CHOICE (assumption log 17): every WAIT polls the same
number of times. -/
def selfTest (polls : Nat) : Nat → List Variant → List Event
  | _, [] => []
  | k, v :: vs =>
    enumerateEntry polls k v ++ getCrcAlgorithm polls v.canonicalName ++ issue polls .check ++
      selfTest polls (k + 1) vs

end Sys2Proof.Machine
end

