-- ==== Sys2Proof/Tests/Slice0.lean ====
section
/-! SUPPORT. Tests with expected results from spec/95_test_vectors.md and the worked examples of the rules, and one
witness for every statement that has hypotheses. -/

namespace Sys2Proof.Tests

set_option Elab.async false

open Sys2Proof Sys2Proof.Machine Sys2Proof.Statements

/-! ### Small states -/

/-- A small instance: BUF_SIZE = 16, NAME_MAX = 9, records 11 and 4 of the default catalogue. -/
def small : Config :=
  ⟨16, 9, [⟨ascii "CRC-8", [ascii "EIGHT"], 8, 0x07, 0x00, false, false, 0x00, 0xF4⟩,
           ⟨ascii "CRC-5/USB", [], 5, 0x05, 0x1F, true, true, 0x1F, 0x19⟩]⟩

/-- The state an outcome holds, or the state given instead. -/
def after (o : Out) (other : State) : State :=
  match o with
  | .next s => s
  | .fault _ => other
  | .refused _ => other

/-- The outcome is a next state. -/
def goesOn (o : Out) : Bool :=
  match o with
  | .next _ => true
  | .fault _ => false
  | .refused _ => false

theorem next_of_goesOn {o : Out} (h : goesOn o = true) : ∃ t, o = .next t := by
  cases o with
  | next t => exact ⟨t, rfl⟩
  | fault _ => cases h
  | refused _ => cases h

/-- A state with the events to come. -/
def facing (es : List Event) (s : State) : State := { s with events := es }

/-- The reset state of the small instance. -/
def idle : State := State.resetOf small

/-- A command word pending. -/
def pending (w : Word) (s : State) : State := { s with cmd := w, busy := true }

/-- A message in BUF, and its length in LEN. -/
def withMessage (m : List Byte) (s : State) : State :=
  { s with mem := Memory.writeBytes s.mem bufBase m, len := BitVec.ofNat 64 m.length }

/-- A name in NAME, and its length in NAME_LEN. -/
def withName (n : Name) (s : State) : State :=
  { s with mem := Memory.writeBytes s.mem nameBase n, nameLen := BitVec.ofNat 64 n.length }

/-- The staging registers filled. -/
def staged (w poly init xo : Word) (ri ro : Bool) (chk : Word) (s : State) : State :=
  { s with staging := ⟨w, poly, init, xo, chk, ri, ro⟩ }

/-- A state with the calculator CFG constructs of these parameters. -/
def configured (w poly init xo : Word) (ri ro : Bool) (chk : Word) (s : State) : State :=
  after (execCfg (staged w poly init xo ri ro chk s)) s

/-- CRC-8 ready (row 11 of R125), and CRC-7 ready (row 9). -/
def crc8 : State := construct 8 0x07 0 0 false false 0xF4 0xFF idle
def crc7 : State := construct 7 0x09 0 0 false false 0x75 0xFF idle

theorem crc8_calcInv : CalcInv crc8.act := construct_calcInv 8 0x07 0 0 false false 0xF4 0xFF idle (by decide) (by decide)
theorem crc7_calcInv : CalcInv crc7.act := construct_calcInv 7 0x09 0 0 false false 0x75 0xFF idle (by decide) (by decide)

/-- "123456789" -/
def digits : List Byte := ascii "123456789"

/-! ### Well-formedness and decoding -/

theorem test_wf_enum_limit : (Instr.enum 255).wf = true ∧ (Instr.enum 256).wf = false := by decide
theorem test_wf_reflect_limit : (Instr.reflect 127).wf = true ∧ (Instr.reflect 128).wf = false := by decide
theorem test_wf_plain :
    ∀ i ∈ [Instr.cfg, .lookup, .calculate, .calct, .calcd, .check], i.wf = true := by decide

/- Each word is written bit by bit from R90: RSV (41) | W (7) | IDX (8) | OPC (8). -/
theorem test_word_cfg :
    decode 0b00000000000000000000000000000000000000000_0000000_00000000_00000001 = .command .cfg := by decide
theorem test_word_lookup :
    decode 0b00000000000000000000000000000000000000000_0000000_00000000_00000010 = .command .lookup := by decide
theorem test_word_enum :
    decode 0b00000000000000000000000000000000000000000_0000000_10000001_00000011 = .command (.enum 129) := by decide
theorem test_word_calc :
    decode 0b00000000000000000000000000000000000000000_0000000_00000000_00010000 = .command .calculate := by decide
theorem test_word_calct :
    decode 0b00000000000000000000000000000000000000000_0000000_00000000_00010001 = .command .calct := by decide
theorem test_word_calcd :
    decode 0b00000000000000000000000000000000000000000_0000000_00000000_00010010 = .command .calcd := by decide
theorem test_word_reflect :
    decode 0b00000000000000000000000000000000000000000_1000001_00000000_00100000 = .command (.reflect 65) := by decide
theorem test_word_check :
    decode 0b00000000000000000000000000000000000000000_0000000_00000000_00110000 = .command .check := by decide

/-- The illegal rows of spec/95 section 12. -/
theorem test_illegal_words :
    [(0x0 : Word), 0x4, 0xF, 0x13, 0x31, 0xFF].map decode = List.replicate 6 (.illegal .unassignedOpcode) ∧
    [(0x101 : Word), 0x10001, 0x120].map decode = List.replicate 3 (.illegal .unusedField) ∧
    [(0x800020 : Word), 0x100000010, 0x8000000000000001].map decode =
      List.replicate 3 (.illegal .reservedBits) := by decide

theorem test_decodeTableWord :
    decodeTableWord 64 0x3903 = some (.enum 57) ∧ decodeTableWord 64 0x10003 = none ∧
      decodeTableWord 8 0xFF10 = some .calculate := by decide

/-- R96 and its examples in R99. -/
theorem test_assemble :
    assemble "ENUM 57" = some 0x3903 ∧ assemble "REFLECT 0x40" = some 0x400020 ∧ assemble "CHECK" = some 0x30 ∧
      assemble "REFLECT 128" = none ∧ assemble "ENUM" = none := by decide +kernel

/-! ### One command each: spec/95 sections 3–11 -/

theorem test_reflect_32 :
    (after (execReflect 32 { idle with opa := 0x04C11DB7 }) idle).result = 0xEDB88320 := by decide +kernel
theorem test_reflect_65 :
    let t := after (execReflect 65 { idle with opa := 1, result := 7 }) idle
    t.err = .badWidth ∧ t.result = 7 := by decide +kernel

theorem test_cfg_masks_parameters :
    let t := configured 16 0xFFFF1021 0xABCD0000FFFF 0x1234FFFF false false 0x29B1 idle
    t.act.poly = 0x1021 ∧ t.act.init = 0xFFFF ∧ tableAt t.act.table 1 = 0x1021 ∧ tableAt t.act.table 0x80 = 0x9188 ∧
      t.act.tvalid = true ∧ t.act.index = 0xFF := by decide +kernel
theorem test_cfg_whole_width_compared :
    let t := configured 0x100000010 0x1021 0 0 false false 0 crc8
    t.err = .badWidth ∧ t.act.valid = false ∧ t.act.tvalid = false ∧ t.act.width = 8 := by decide +kernel

theorem test_lookup_pkzip :
    let t := after (execLookup (withName (ascii "pkZip") State.reset)) idle
    t.err = .ok ∧ t.act.index = 57 ∧ t.act.width = 32 ∧ t.act.poly = 0x04C11DB7 ∧ tableAt t.act.table 1 = 0x77073096 := by
  decide +kernel
theorem test_lookup_not_found :
    let t := after (execLookup (withName (ascii "CRC-31/PHILIPS") { State.reset with act := crc8.act })) idle
    t.err = .notFound ∧ t.act.valid = false ∧ t.act.width = 8 := by decide +kernel

theorem test_enum_57 :
    let t := after (execEnum 57 { State.reset with mem := [(0x2006, 9)] }) idle
    t.onameLen = 6 ∧ t.mem.readBytes onameBase 7 = some (ascii "CRC-32" ++ [0]) := by decide +kernel
theorem test_enum_67 :
    let t := after (execEnum 67 { State.reset with mem := [(0x2006, 9)] }) idle
    t.err = .indexRange ∧ t.mem = [(0x2006, 9)] := by decide +kernel

theorem test_calc_table_side :
    (after (execCalc (withMessage digits crc8)) idle).result = 0xF4 := by decide +kernel
theorem test_calc_direct_side :
    (after (execCalc (withMessage digits crc7)) idle).result = 0x75 := by decide +kernel

theorem test_calct_asymmetric_init :
    (after (execCalct (withMessage digits (configured 16 0x1021 0x0001 0 true false 0 idle))) idle).result
      = 0xD657 := by decide +kernel
theorem test_calct_narrow_before_length :
    (after (execCalct { crc7 with len := 5000 }) idle).err = .tableNarrow := by decide +kernel

theorem test_calcd_64_bits :
    (after (execCalcd (withMessage digits
      (configured 64 0x42F0E1EBA9EA3693 0xFFFFFFFFFFFFFFFF 0xFFFFFFFFFFFFFFFF true true 0 idle))) idle).result
      = 0x995DC9BBDF1939FA := by decide +kernel
theorem test_calcd_unwritten :
    let t := after (execCalcd { withMessage [0x61] crc8 with len := 2, err := .notFound, busy := true }) idle
    t.faults = ⟨false, false, true, false⟩ ∧ t.err = .notFound ∧ t.busy = false ∧ t.result = 0 := by decide +kernel

theorem test_check_mismatch :
    let t := after (execCheck (configured 16 0x8005 0 0 true true 0x1234 idle)) idle
    t.result = 0xBB3D ∧ t.err = .checkMismatch := by decide +kernel
theorem test_check_no_calculator :
    (after (execCheck { idle with result := 5 }) idle).err = .noCalc ∧
      (after (execCheck { idle with result := 5 }) idle).result = 5 := by decide +kernel

/-! ### Host transactions: spec/95 sections 13 and 14 -/

theorem test_read_caps :
    (after (step (facing [.read 0x38 8] State.reset)) idle).reads = [0x1400010002043] := by decide +kernel
theorem test_misaligned_read :
    let t := after (step (facing [.read 0x0C 8] idle)) idle
    t.reads = [0] ∧ statusWord t = 0x4 ∧ t.faults = ⟨false, true, false, false⟩ := by decide +kernel
theorem test_pflags_reserved_bits :
    readReg .pFlags (after (step (facing [.write 0x60 8 0xFF] idle)) idle) = 3 := by decide +kernel
theorem test_busy_write_dropped :
    let t := after (step (facing [.write 0x00 8 0x30] (pending 0x10 idle))) idle
    t.cmd = 0x10 ∧ statusWord t = 0x3 ∧ statusWord (after (step t) idle) = 0x202 := by decide +kernel
/-- R73: RESULT is a free value until STATUS has been read with BUSY = 0, then the stored value. -/
theorem test_outcome_unseen :
    let t := after (step (facing [.read 0x10 8] { idle with result := 5, unseen := true })) idle
    t.draws = 1 ∧ t.reads = [Config.freeDraw 0] := ⟨by decide +kernel, rfl⟩
theorem test_outcome_seen :
    (after (step (facing [.read 0x08 8] { idle with unseen := true })) idle).unseen = false ∧
      (after (step (facing [.read 0x10 8] { idle with result := 5 })) idle).reads = [5] ∧
      (after (step (facing [.write 0x00 8 0x30] idle)) idle).unseen = true := by decide +kernel
theorem test_byte_write :
    (after (step (facing [.write 0x10000F 1 0x1FF] idle)) idle).mem = [(0x10000F, 0xFF)] ∧
      (after (step (facing [.write 0x100010 1 0x1FF] idle)) idle).aerr = true := by decide +kernel
theorem test_reset_abandons_command :
    let t := after (step (facing [.reset] (pending 0x30 crc8))) idle
    t.busy = false ∧ t.cmd = 0 ∧ t.act.valid = false ∧ t.act.index = 0xFF ∧ t.err = .ok := by decide +kernel

/-! ### Witnesses

`wit_X` (or `wit_X_1`, `wit_X_2`, …, one a clause) gives values that meet the hypotheses of Obligations.X together.
Statements without hypotheses have none. -/

theorem wit_ResetSetsEveryField : configWf small = true ∧ 15 < small.bufSize ∧ 8 < small.nameMax := by decide
theorem wit_ResetOverridesEverything : (facing [.reset, .engine] crc8).events = .reset :: [.engine] := rfl
theorem wit_ResetMeetsInvariant : catalogWf small = true := by decide +kernel

/-- StepKeepsInvariant, and the statements whose one hypothesis is that a step answers next (ConfigurationIsImmutable). -/
theorem wit_StepKeepsInvariant :
    StateInv (facing [.read 0x100000 1] (withMessage digits crc8)) ∧
      ∃ t, step (facing [.read 0x100000 1] (withMessage digits crc8)) = .next t :=
  ⟨⟨by decide +kernel, crc8_calcInv, by decide +kernel, by decide +kernel, by decide +kernel⟩,
    next_of_goesOn (by decide +kernel)⟩
theorem wit_ConfigurationIsImmutable : ∃ t, step (pending 0x10 crc8) = .next t :=
  next_of_goesOn (by decide +kernel)

theorem wit_EngineTurnRunsPendingCommand_1 : EngineTurn idle [] ∧ idle.busy = false := ⟨.inl ⟨rfl, rfl⟩, rfl⟩
theorem wit_EngineTurnRunsPendingCommand_2 :
    let s := facing [.engine, .reset] (pending 0x30 idle)
    EngineTurn s [.reset] ∧ s.busy = true ∧ decode s.cmd = .command .check := ⟨.inr rfl, rfl, by decide⟩
theorem wit_FetchWordRunsNext : decodeTableWord 64 0x3903 = some (.enum 57) := by decide
theorem wit_RunEndsAfterOneEngineStep : (pending 0x30 crc8).events = [] := by decide +kernel

theorem wit_DecodeInvertsEncode :
    (Instr.enum 255).wf = true ∧ (Instr.reflect 0).wf = true ∧ (Instr.reflect 127).wf = true := by decide
theorem wit_EncodeInvertsDecode :
    decode 0xFF03 = .command (.enum 255) ∧ decode 0x7F0020 = .command (.reflect 127) := by decide
theorem wit_OpcodeMapDecides :
    (⟨"ENUM", 0x3, 0xFFFFFFFFFFFF00FF⟩ : OpcodeRow) ∈ opcodeRows ∧
      OpcodeRow.hit ⟨"ENUM", 0x3, 0xFFFFFFFFFFFF00FF⟩ 0xFF03 = true := by decide
theorem wit_IllegalWordCompletesWithError :
    let s := pending 0x800020 crc8
    EngineTurn s [] ∧ s.busy = true ∧ decode s.cmd = .illegal .reservedBits :=
  ⟨.inl ⟨by decide +kernel, rfl⟩, rfl, by decide⟩

/-- Both ends of both ranges. -/
theorem wit_ReflectCommand :
    (1 ≤ 1 ∧ 1 ≤ 64) ∧ (1 ≤ 64 ∧ 64 ≤ 64) ∧ ¬(1 ≤ 0 ∧ 0 ≤ 64) ∧ ¬(1 ≤ 65 ∧ 65 ≤ 64) := by decide
theorem wit_ReflectLaws : 1 ≤ 8 ∧ 8 ≤ 64 ∧ 8 ≤ 8 ∧ (0xFF : Word).toNat < 2 ^ 8 := by decide

/-- P_WIDTH = 1, 7, 8, 64 and 0, 65. -/
theorem wit_CfgCommand :
    let width := fun w => (staged w 0 0 0 true true 0 idle).staging.width.toNat
    (1 ≤ width 1 ∧ width 7 ≤ 64) ∧ (1 ≤ width 8 ∧ width 64 ≤ 64) ∧ ¬(1 ≤ width 0 ∧ width 0 ≤ 64) ∧
      ¬(1 ≤ width 65 ∧ width 65 ≤ 64) := by decide
/-- TableIsLinear and TableLandmarks, at both ends. -/
theorem wit_TableLandmarks : (8 ≤ 8 ∧ 8 ≤ 64) ∧ (8 ≤ 64 ∧ 64 ≤ 64) := by decide

/-- NAME_LEN one past NAME_MAX. -/
theorem wit_LookupCommand_1 : small.nameMax < ({ idle with nameLen := 10 } : State).nameLen.toNat := by decide
/-- NAME_LEN = NAME_MAX, the last byte unwritten. -/
theorem wit_LookupCommand_2 :
    ({ idle with nameLen := 9 } : State).nameLen.toNat ≤ small.nameMax ∧
      SomeUnwritten { idle with nameLen := 9 } nameBase 9 := ⟨by decide, 8, by decide, by decide⟩
theorem wit_LookupCommand_3 :
    (withName (ascii "CRC-9") idle).nameLen.toNat ≤ small.nameMax ∧
      HoldsBytes (withName (ascii "CRC-9") idle) nameBase (ascii "CRC-9") ∧
      ∀ v ∈ small.catalog, ¬Answers v (ascii "CRC-9") := by
  unfold HoldsBytes Answers; decide +kernel
/-- Found at index 1, not at index 0; NAME_LEN = NAME_MAX. -/
theorem wit_LookupCommand_4 :
    (withName (ascii "crc-5/Usb") idle).nameLen.toNat ≤ small.nameMax ∧
      HoldsBytes (withName (ascii "crc-5/Usb") idle) nameBase (ascii "crc-5/Usb") ∧
      ∃ u v, small.catalog = [u, v] ∧ v.width = 5 ∧ Answers v (ascii "crc-5/Usb") ∧ ¬Answers u (ascii "crc-5/Usb") :=
  ⟨by decide +kernel, by unfold HoldsBytes; decide +kernel, _, _, rfl, rfl,
    by unfold Answers; decide +kernel, by unfold Answers; decide +kernel⟩

/-- LookupLoadsTheNamedEntry and LookupThenCheckPasses: the alias `EIGHT` of entry 0. -/
theorem wit_LookupThenCheckPasses :
    catalogWf small = true ∧ ∃ v, small.catalog[0]? = some v ∧ ascii "EIGHT" ∈ v.names ∧
      nameEq (ascii "EIGHT") (ascii "eight") = true ∧ Answers v (ascii "eight") ∧ variantKatValid v = true ∧
      (ascii "eight").length = (withName (ascii "eight") idle).nameLen.toNat ∧
      HoldsBytes (withName (ascii "eight") idle) nameBase (ascii "eight") :=
  ⟨by decide, _, rfl, by decide +kernel, by decide +kernel, by unfold Answers; decide +kernel, by decide +kernel,
    by decide +kernel, by unfold HoldsBytes; decide +kernel⟩

/-- The last record, and the first index past it. -/
theorem wit_EnumCommand : (∃ v, small.catalog[1]? = some v) ∧ small.catalog.length ≤ 2 ∧ idle.mem.wf = true :=
  ⟨⟨_, rfl⟩, by decide, by decide⟩

/-- TableEngineEqualsDirectEngine at both ends of its widths. -/
theorem wit_TableEngineEqualsDirectEngine :
    let a := fun w => (⟨w, 0x07, 0xF00, 0, true, false⟩ : CrcParams)
    (8 ≤ (a 8).width ∧ (a 8).width ≤ 64) ∧ (8 ≤ (a 64).width ∧ (a 64).width ≤ 64) := by decide
/-- DirectEngineDividesPolynomials and HighParameterBitsAreNeutral, at width 1. -/
theorem wit_HighParameterBitsAreNeutral :
    1 ≤ (⟨1, 3, 2, 4, true, false⟩ : CrcParams).width ∧ (⟨1, 3, 2, 4, true, false⟩ : CrcParams).width ≤ 64 := by decide

/-- CalcdCommand, CalctCommand, CalcCommand: no calculator. -/
theorem wit_CalcCommand_1 : idle.act.valid = false := by decide
/-- LEN one past BUF_SIZE. -/
theorem wit_CalcCommand_2 :
    let s : State := { crc8 with len := 17 }
    s.act.valid = true ∧ 7 < s.act.width.toNat ∧ s.cfg.bufSize < s.len.toNat := by decide +kernel
/-- LEN = BUF_SIZE, the last byte unwritten. -/
theorem wit_CalcCommand_3 :
    let s : State := { crc8 with len := 16 }
    s.act.valid = true ∧ 7 < s.act.width.toNat ∧ s.len.toNat ≤ s.cfg.bufSize ∧ SomeUnwritten s bufBase 16 :=
  ⟨by decide +kernel, by decide +kernel, by decide +kernel, 15, by decide, by decide +kernel⟩
/-- LEN = BUF_SIZE, every byte written; width 8 (the table side). -/
theorem wit_CalcCommand_4 :
    let s := withMessage (digits ++ ascii "abcdefg") crc8
    s.act.valid = true ∧ 7 < s.act.width.toNat ∧ s.len.toNat ≤ s.cfg.bufSize ∧
      (digits ++ ascii "abcdefg").length = s.len.toNat ∧ HoldsBytes s bufBase (digits ++ ascii "abcdefg") := by
  unfold HoldsBytes; decide +kernel
/-- Width 7 (the direct side; CALCT narrow). -/
theorem wit_CalcCommand_5 :
    let s := withMessage digits crc7
    s.act.valid = true ∧ s.act.width.toNat ≤ 7 ∧ s.len.toNat ≤ s.cfg.bufSize ∧ digits.length = s.len.toNat ∧
      HoldsBytes s bufBase digits := by
  unfold HoldsBytes; decide +kernel
theorem wit_CheckCommand : idle.act.valid = false ∧ crc8.act.valid = true := by decide +kernel
theorem wit_CalculationCommandsAgree : CalcInv crc8.act ∧ crc8.act.valid = true ∧ 7 < crc8.act.width.toNat :=
  ⟨crc8_calcInv, by decide +kernel, by decide +kernel⟩
theorem wit_EmptyMessageGivesInitXorOut :
    (CalcInv crc8.act ∧ crc8.act.valid = true ∧ crc8.len = 0 ∧ 7 < crc8.act.width.toNat) ∧
      CalcInv crc7.act ∧ crc7.act.valid = true ∧ crc7.len = 0 :=
  ⟨⟨crc8_calcInv, by decide +kernel⟩, crc7_calcInv, by decide +kernel⟩
theorem wit_CrcResultsFitTheWidth :
    isCrcCommand .check = true ∧ CalcInv crc8.act ∧ ∃ t, exec .check crc8 = .next t :=
  ⟨rfl, crc8_calcInv, next_of_goesOn (by decide +kernel)⟩
/-- Two states that agree on what a calculation reads and differ elsewhere. -/
theorem wit_CalculationsArePure :
    let s := withMessage digits crc8
    let s' := { s with opa := 5, err := .notFound, reads := [1] }
    isCrcCommand .calculate = true ∧ s.act = s'.act ∧ s.len = s'.len ∧ s.cfg.bufSize = s'.cfg.bufSize ∧
      (∀ j, j < s.cfg.bufSize → memRead s (bufBase + j) = memRead s' (bufBase + j)) ∧
      (∃ t, exec .calculate s = .next t) ∧ ∃ t', exec .calculate s' = .next t' :=
  ⟨rfl, rfl, rfl, rfl, fun _ _ => rfl, next_of_goesOn (by decide +kernel), next_of_goesOn (by decide +kernel)⟩

/-- ResultCommandsFrame, ConstructionCommandsFrame, EnumFrame and CommandsRaiseTheirOwnCodes: each command answers next,
with a failure (from the reset state) and without. -/
theorem wit_ResultCommandsFrame :
    (∀ i ∈ [Instr.cfg, .lookup, .enum 2, .calculate, .calct, .calcd, .reflect 0, .check], goesOn (exec i idle) = true) ∧
    (∀ i ∈ [Instr.enum 1, .calculate, .calct, .calcd, .reflect 8, .check], goesOn (exec i crc8) = true) := by
  decide +kernel
theorem wit_EnumFrame :
    (after (execEnum 2 idle) idle).err ≠ .ok ∧ (after (execEnum 1 idle) idle).err = .ok := by decide +kernel

theorem wit_OnlyCfgAndLookupChangeCalculator :
    let s := pending 0x01 (staged 8 7 0 0 false false 0 idle)
    ∃ t, step s = .next t ∧ t.act ≠ s.act :=
  ⟨_, rfl, fun h => absurd (congrArg Calculator.valid h) (by decide)⟩
theorem wit_OnlyTheHostWritesBufAndName :
    (0x100000 < onameBase ∨ onameBase + small.nameMax ≤ 0x100000) ∧
      ∃ t, step (facing [.write 0x100000 1 5] idle) = .next t ∧ memRead t 0x100000 ≠ memRead idle 0x100000 :=
  ⟨by decide, _, rfl, by decide +kernel⟩
theorem wit_FaultsAreStickyUntilReset :
    let s : State := { pending 0x10 idle with faults := ⟨true, true, true, true⟩, haz := true, aerr := true }
    (∃ t, step s = .next t) ∧ (∀ rest, s.events ≠ .reset :: rest) ∧ s.faults.has .uninit = true ∧ s.haz = true ∧
      s.aerr = true :=
  ⟨next_of_goesOn (by decide +kernel), fun _ h => (by cases h), rfl, rfl, rfl⟩
/-- A write and a read while a command is pending. -/
theorem wit_PendingCommandKeepsItsInputs :
    let s := facing [.write 0x20 8 9, .read 0x10 8] (pending 0x10 crc8)
    s.busy = true ∧ (∀ e ∈ s.events, (∃ a n, e = .read a n) ∨ ∃ a n v, e = .write a n v) ∧
      ∃ t, core.run s.events.length s = .next t :=
  ⟨rfl, fun e he => by
    have he : e = .write 0x20 8 9 ∨ e = .read 0x10 8 := by simpa [facing] using he
    rcases he with h | h
    · exact .inr ⟨_, _, _, h⟩
    · exact .inl ⟨_, _, h⟩, next_of_goesOn (by decide +kernel)⟩

/-- The edges of every region of the small instance, and one past them. -/
theorem wit_WellFormedAccesses :
    configWf crc8.cfg = true ∧
      readTarget crc8 0xB8 8 = some (.reg .aHighbit) ∧ readTarget crc8 0x37F8 8 = some (.tableEntry 255) ∧
      readTarget crc8 0x1008 1 = some (.nameByte 8) ∧ readTarget crc8 0x10000F 1 = some (.bufByte 15) ∧
      readTarget crc8 0x70 8 = none ∧ readTarget crc8 0x3800 8 = none ∧ readTarget crc8 0x1009 1 = none ∧
      readTarget crc8 0x100010 1 = none ∧ readTarget idle 0x3000 8 = none ∧
      writeTarget crc8 0x68 8 = some (.reg .pCheck) ∧ writeTarget crc8 0x2000 1 = none ∧
      writeTarget crc8 0x08 8 = none := by decide +kernel
/-- A read of a reserved offset, and a write of ONAME. -/
theorem wit_AccessErrorEffect :
    let s := facing [.read 0x70 8] crc8
    let s' := facing [.write 0x2000 1 0x41] crc8
    (s.events = [.read 0x70 8] ∧ readTarget s 0x70 8 = none) ∧
      s'.events = [.write 0x2000 1 0x41] ∧ writeTarget s' 0x2000 1 = none := by decide +kernel
theorem wit_WriteWhileBusyIsDropped :
    let s := facing [.write 0x20 8 9] (pending 0x10 crc8)
    s.events = [.write 0x20 8 9] ∧ s.busy = true ∧ writeTarget s 0x20 8 ≠ none ∧ ∃ t, exec .calculate s = .next t :=
  ⟨rfl, rfl, by decide +kernel, next_of_goesOn (by decide +kernel)⟩
/-- A command's outcome, free while busy (A_CHECK) and while unseen (RESULT). -/
theorem wit_HostReadReturns_free :
    let s := facing [.read 0xA8 8] (pending 0x10 crc8)
    let s' := facing [.read 0x10 8] { crc8 with unseen := true }
    (readTarget s 0xA8 8 ≠ none ∧ 0xA8 = regOffset .aCheck ∧ s.busy = true) ∧
      readTarget s' 0x10 8 ≠ none ∧ 0x10 = regOffset .result ∧ s'.busy = false ∧ s'.unseen = true ∧
      Reg.result ∈ outcomeRegs := by decide +kernel
/-- Seen by a read of STATUS; unseen again by a write of CMD. -/
theorem wit_OutcomeIsSeenThroughStatus :
    let s : State := facing [.read 0x08 8] { idle with unseen := true }
    let s' := facing [.write 0x00 8 0x30] idle
    (∃ t, step s = .next t ∧ s.unseen = true ∧ t.unseen = false) ∧
      ∃ t, step s' = .next t ∧ s'.unseen = false ∧ t.unseen = true :=
  ⟨⟨_, rfl, rfl, rfl⟩, _, rfl, rfl, rfl⟩
/-- STATUS while busy, a register when idle, a written byte when idle; in the last two the outcome is seen. -/
theorem wit_HostReadReturns :
    let s := facing [.read 0x08 8] (pending 0x10 crc8)
    let s' := facing [.read 0xA8 8] crc8
    let s'' := facing [.read 0x100000 1] (withMessage digits crc8)
    (readTarget s 0x08 8 ≠ none ∧ s.busy = true ∧ 0x08 = regOffset .status) ∧
      (readTarget s' 0xA8 8 ≠ none ∧ s'.busy = false ∧ s'.unseen = false ∧ 0xA8 = regOffset .aCheck) ∧
      readTarget s'' 0x100000 1 ≠ none ∧ s''.busy = false ∧ s''.unseen = false ∧ memRead s'' 0x100000 = some 0x31 := by decide +kernel
/-- A calculator with a table, read at its last entry, and one without. -/
theorem wit_TableReadsMatchTheCalculator :
    let s := facing [.read 0x37F8 8] crc8
    (CalcInv s.act ∧ s.events = [.read (tableBase + 8 * (255 : Byte).toNat) 8] ∧ s.act.valid = true ∧
      s.act.tvalid = true ∧ s.busy = false ∧ s.unseen = false) ∧ CalcInv crc7.act ∧ crc7.act.tvalid = false :=
  ⟨⟨crc8_calcInv, by decide +kernel⟩, crc7_calcInv, by decide +kernel⟩
theorem wit_RegisterWritesReadBack :
    let s := facing [.write 0x60 8 0xFF] crc8
    s.events = [.write (regOffset .pFlags) 8 0xFF] ∧ s.busy = false ∧ regRight .pFlags ≠ .ro := by decide +kernel
/-- The last byte of BUF. -/
theorem wit_ByteWritesStoreOneByte :
    let s := facing [.write 0x10000F 1 0x1FF] crc8
    configWf s.cfg = true ∧ s.events = [.write 0x10000F 1 0x1FF] ∧ s.busy = false ∧
      writeTarget s 0x10000F 1 ≠ none := by decide +kernel
theorem wit_PackedRegisterLayouts : configWf small = true := by decide

end Sys2Proof.Tests
end

section
/-! Completion: what a command leaves alone, and that every command, every ENGINE turn and every step answers a next
state (spec/00_scope.md R13, spec/70_reset_and_hazards.md R225, R227, R234). -/

namespace Sys2Proof.Machine

/-- A command that began in `s` has completed in `t` (R191, R225): BUSY = 0, and only ERR, RESULT, ONAME_LEN, the
calculator, the memories and FAULTS may differ. -/
def CompletedFrom (s t : State) : Prop :=
  t = { s with
    busy := false, err := t.err, result := t.result, onameLen := t.onameLen, act := t.act, mem := t.mem,
    faults := t.faults }

theorem CompletedFrom.busy {s t : State} (h : CompletedFrom s t) : t.busy = false := congrArg State.busy h

theorem CompletedFrom.events {s t : State} (h : CompletedFrom s t) : t.events = s.events :=
  (congrArg State.events h :)

theorem calculateMessage_completes (engine : List Byte → Word) (s : State) :
    ∃ t, calculateMessage engine s = .next t ∧ CompletedFrom s t := by
  obtain ⟨-, h⟩ | ⟨-, -, h⟩ | ⟨bytes, -, -, h⟩ := calculateMessage_cases engine s <;> exact ⟨_, h, rfl⟩

theorem execCfg_completes (s : State) : ∃ t, execCfg s = .next t ∧ CompletedFrom s t := by
  obtain ⟨-, h⟩ | ⟨-, h⟩ := execCfg_cases s <;> exact ⟨_, h, rfl⟩

theorem execLookup_completes (s : State) : ∃ t, execLookup s = .next t ∧ CompletedFrom s t := by
  obtain ⟨-, h⟩ | ⟨-, -, h⟩ | ⟨q, -, -, -, h⟩ | ⟨q, k, v, -, -, -, h⟩ := execLookup_cases s <;> exact ⟨_, h, rfl⟩

theorem execEnum_completes (k : Nat) (s : State) : ∃ t, execEnum k s = .next t ∧ CompletedFrom s t := by
  obtain ⟨-, h⟩ | ⟨v, -, h⟩ := execEnum_cases k s <;> exact ⟨_, h, rfl⟩

theorem execReflect_completes (w : Nat) (s : State) : ∃ t, execReflect w s = .next t ∧ CompletedFrom s t := by
  obtain ⟨-, h⟩ | ⟨-, h⟩ := execReflect_cases w s <;> exact ⟨_, h, rfl⟩

theorem execCalc_completes (s : State) : ∃ t, execCalc s = .next t ∧ CompletedFrom s t := by
  cases hv : s.act.valid with
  | false =>
    obtain ⟨h, -, -, -⟩ := calculations_without_calculator s hv
    exact ⟨_, h, rfl⟩
  | true => rw [execCalc_valid s hv]; exact calculateMessage_completes _ s

theorem execCalct_completes (s : State) : ∃ t, execCalct s = .next t ∧ CompletedFrom s t := by
  cases hv : s.act.valid with
  | false =>
    obtain ⟨-, h, -, -⟩ := calculations_without_calculator s hv
    exact ⟨_, h, rfl⟩
  | true =>
    obtain hw | hw := Nat.lt_or_ge 7 s.act.width.toNat
    · rw [execCalct_wide s hv hw]; exact calculateMessage_completes _ s
    · exact ⟨_, execCalct_narrow s hv hw, rfl⟩

theorem execCalcd_completes (s : State) : ∃ t, execCalcd s = .next t ∧ CompletedFrom s t := by
  cases hv : s.act.valid with
  | false =>
    obtain ⟨-, -, h, -⟩ := calculations_without_calculator s hv
    exact ⟨_, h, rfl⟩
  | true => rw [execCalcd_valid s hv]; exact calculateMessage_completes _ s

theorem execCheck_completes (s : State) : ∃ t, execCheck s = .next t ∧ CompletedFrom s t := by
  cases hv : s.act.valid with
  | false =>
    obtain ⟨-, -, -, h⟩ := calculations_without_calculator s hv
    exact ⟨_, h, rfl⟩
  | true => exact ⟨_, execCheck_valid s hv, rfl⟩

/-- Every command completes, at every state (R225). -/
theorem exec_completes (i : Instr) (s : State) : ∃ t, exec i s = .next t ∧ CompletedFrom s t := by
  cases i with
  | cfg => exact execCfg_completes s
  | lookup => exact execLookup_completes s
  | enum k => exact execEnum_completes k s
  | calculate => exact execCalc_completes s
  | calct => exact execCalct_completes s
  | calcd => exact execCalcd_completes s
  | reflect w => exact execReflect_completes w s
  | check => exact execCheck_completes s

/-- The ENGINE completes any pending word, legal or not (R94, R225). -/
theorem engineStep_completes (s : State) : ∃ t, engineStep s = .next t ∧ CompletedFrom s t := by
  unfold engineStep
  cases decode s.cmd with
  | illegal why => exact ⟨_, rfl, rfl⟩
  | command i => exact exec_completes i s

/-- After the ENGINE's turn nothing is pending, and the HOST's program is as it was. -/
theorem engineTurn_leaves_idle (s : State) :
    ∃ t, applyEvent .engine s = .next t ∧ t.busy = false ∧ t.events = s.events := by
  cases hb : s.busy with
  | false => exact ⟨s, by simp [applyEvent, hb], hb, rfl⟩
  | true =>
    obtain ⟨t, ht, hc⟩ := engineStep_completes s
    exact ⟨t, by simpa [applyEvent, hb] using ht, hc.busy, hc.events⟩

/-- Every event has an outcome, and it is a next state (R227). -/
theorem applyEvent_total (e : Event) (s : State) : ∃ t, applyEvent e s = .next t := by
  cases e with
  | reset => exact ⟨_, rfl⟩
  | engine =>
    obtain ⟨t, ht, -⟩ := engineTurn_leaves_idle s
    exact ⟨t, ht⟩
  | read a n => exact ⟨_, rfl⟩
  | write a n v => exact ⟨_, rfl⟩

/-- A finished run stutters: nothing pending and no transaction left (R234). -/
theorem step_idle_nil (s : State) (he : s.events = []) (hb : s.busy = false) : step s = .next s := by
  rw [step_nil s he, hb]; rfl

/-- Settles O5: a step is one event, and every event has a next state. -/
theorem everyStepGoesOn : Obligations.EveryStepGoesOn := by
  intro s
  cases he : s.events with
  | nil =>
    obtain ⟨t, ht⟩ := applyEvent_total .engine s
    exact ⟨t, by rw [step_nil s he]; exact ht⟩
  | cons e rest => rw [step_cons s he]; exact applyEvent_total e _

/-- Settles O8, from what each command may change. -/
theorem everyCommandCompletes : Obligations.EveryCommandCompletes := by
  intro i s
  obtain ⟨t, ht, hc⟩ := exec_completes i s
  exact ⟨t, ht, hc.busy⟩

/-- Settles O9: the one step owed is the ENGINE's turn, which leaves an idle machine with no event to come. -/
theorem runEndsAfterOneEngineStep : Obligations.RunEndsAfterOneEngineStep := by
  intro s he
  obtain ⟨t, ht, hb, hte⟩ := engineTurn_leaves_idle s
  rw [he] at hte
  exact ⟨t, by rw [step_nil s he]; exact ht, hb, hte, step_idle_nil t hte hb⟩

end Sys2Proof.Machine
end

section
/-! The bit-serial engine as polynomial division over GF(2) (spec/00_scope.md R1, R8, R11; spec/44_direct.md R150).
One bit step is a step of long division: it takes the register's polynomial c to X·c plus the message bit at X^w, less
a multiple of the generator. -/

open scoped Polynomial
open Polynomial (X)

namespace Sys2Proof.Statements

open Sys2Proof.Machine

/-! ### Registers as polynomials -/

theorem polyOf_congr {w : Nat} {u v : Word} (h : ∀ k, k < w → u.getLsbD k = v.getLsbD k) : polyOf w u = polyOf w v :=
  Finset.sum_congr rfl fun k hk => by rw [h k (Finset.mem_range.1 hk)]

/-- XOR is addition over GF(2) (R8). -/
theorem polyOf_xor (w : Nat) (u v : Word) : polyOf w (u ^^^ v) = polyOf w u + polyOf w v := by
  rw [polyOf, polyOf, polyOf, ← Finset.sum_add_distrib]
  refine Finset.sum_congr rfl fun k _ => ?_
  rw [BitVec.getLsbD_xor]
  cases u.getLsbD k <;> cases v.getLsbD k <;> simp [CharTwo.add_self_eq_zero]

/-- Shifting left is multiplication by X; the bit that leaves the register is the coefficient of X^w. -/
theorem polyOf_shiftLeft_one (w : Nat) (v : Word) (h1 : 1 ≤ w) (h2 : w ≤ 64) :
    polyOf w (v <<< 1) + (if v.getLsbD (w - 1) then X ^ w else 0) = X * polyOf w v := by
  obtain ⟨n, rfl⟩ : ∃ n, w = n + 1 := ⟨w - 1, by omega⟩
  have hlow : (v <<< 1).getLsbD 0 = false := by simp
  have hbit : ∀ k ∈ Finset.range n, (if (v <<< 1).getLsbD (k + 1) then (X : (ZMod 2)[X]) ^ (k + 1) else 0)
      = X * if v.getLsbD k then X ^ k else 0 := fun k hk => by
    have hk : k + 1 < 64 := by have := Finset.mem_range.1 hk; omega
    rw [BitVec.getLsbD_shiftLeft, decide_eq_true hk]
    simp [pow_succ']
  rw [polyOf, polyOf, Finset.sum_range_succ', Finset.sum_congr rfl hbit, hlow, Finset.sum_range_succ, mul_add,
    Finset.mul_sum]
  simp [pow_succ']

theorem polyOf_and_mask (w : Nat) (v : Word) (h1 : 1 ≤ w) (h2 : w ≤ 64) : polyOf w (v &&& mask w) = polyOf w v :=
  polyOf_congr fun k hk => by simp [mask_getLsbD w k h1 h2, hk]

/-- One more message bit multiplies what came before by X. -/
theorem bitsPoly_concat (bits : List Bool) (b : Bool) :
    bitsPoly (bits ++ [b]) = X * bitsPoly bits + if b then 1 else 0 := by
  simp [bitsPoly]

/-! ### The engine as a fold over the message bits -/

theorem messageBits_length (refIn : Bool) (bytes : List Byte) : (messageBits refIn bytes).length = 8 * bytes.length := by
  simp [messageBits, List.length_flatMap, mul_comm]

theorem directBits_eq_foldl (a : CrcParams) (c : Byte) (n : Nat) (crc : Word) :
    directBits a c n crc = ((List.range n).map fun j => c.getLsbD (n - 1 - j)).foldl (directBit a) crc := by
  induction n generalizing crc with
  | zero => rfl
  | succ n ih =>
    rw [directBits_succ, ih, List.range_succ_eq_map, List.map_cons, List.foldl_cons, List.map_map]
    simp [Function.comp_def, Nat.sub_sub, Nat.add_comm]

/-- A byte step takes the byte's eight bits in the order of R69. -/
theorem directByte_eq_foldl (a : CrcParams) (crc : Word) (b : Byte) :
    directByte a crc b = (messageBits a.refIn [b]).foldl (directBit a) crc := by
  rw [directByte, directBits_eq_foldl, messageBits, List.flatMap_singleton]
  congr 1
  refine List.map_congr_left fun j hj => ?_
  have hj : j < 8 := List.mem_range.1 hj
  split
  · rw [reflectByte_getLsbD, decide_eq_true (by omega), Bool.true_and, show 7 - (8 - 1 - j) = j by omega]
  · rfl

theorem messageBits_cons (refIn : Bool) (b : Byte) (bytes : List Byte) :
    messageBits refIn (b :: bytes) = messageBits refIn [b] ++ messageBits refIn bytes := by simp [messageBits]

/-- DirectCRC's register after a message is the fold of the bit step over the message bits. -/
theorem foldl_directByte_eq (a : CrcParams) (bytes : List Byte) (crc : Word) :
    bytes.foldl (directByte a) crc = (messageBits a.refIn bytes).foldl (directBit a) crc := by
  induction bytes generalizing crc with
  | nil => rfl
  | cons b bs ih => rw [List.foldl_cons, ih, directByte_eq_foldl, messageBits_cons _ b bs, List.foldl_append]

/-! ### Division -/

/-- The generator x^w + poly. -/
noncomputable def generator (a : CrcParams) : (ZMod 2)[X] := X ^ a.width + polyOf a.width a.poly

/-- One bit step is one step of long division: the register becomes X·crc + b·X^w, less the generator if the
coefficient of X^w there is 1. -/
theorem polyOf_directBit (a : CrcParams) (crc : Word) (b : Bool) (h1 : 1 ≤ a.width) (h2 : a.width ≤ 64) :
    polyOf a.width (directBit a crc b) =
      X * polyOf a.width crc + (if b then 1 else 0) * X ^ a.width
        - if crc.getLsbD (a.width - 1) != b then generator a else 0 := by
  have two : (2 : (ZMod 2)[X]) = 0 := CharTwo.two_eq_zero
  simp only [← polyOf_shiftLeft_one a.width crc h1 h2, directBit, and_highBit_ne_zero crc a.width h1 h2, generator]
  cases crc.getLsbD (a.width - 1) <;> cases b <;>
    simp only [bne_self_eq_false, Bool.bne_true, Bool.bne_false, Bool.not_false, Bool.false_eq_true, if_true, if_false,
      polyOf_xor]
  case false.false => ring
  case false.true => linear_combination polyOf a.width a.poly * two
  case true.false => linear_combination polyOf a.width a.poly * two
  case true.true => linear_combination -X ^ a.width * two

theorem generator_dvd_directBit (a : CrcParams) (crc : Word) (b : Bool) (h1 : 1 ≤ a.width) (h2 : a.width ≤ 64) :
    generator a ∣ X * polyOf a.width crc + (if b then 1 else 0) * X ^ a.width
      - polyOf a.width (directBit a crc b) := by
  rw [polyOf_directBit a crc b h1 h2, sub_sub_cancel]
  split
  · exact dvd_rfl
  · exact dvd_zero _

/-- The register after any bits is congruent to crc·X^n + bits·X^w modulo the generator. -/
theorem generator_dvd_foldl_directBit (a : CrcParams) (crc : Word) (bits : List Bool) (h1 : 1 ≤ a.width)
    (h2 : a.width ≤ 64) :
    generator a ∣ polyOf a.width crc * X ^ bits.length + bitsPoly bits * X ^ a.width
      - polyOf a.width (bits.foldl (directBit a) crc) := by
  induction bits using List.reverseRecOn with
  | nil => simp [bitsPoly]
  | append_singleton bits b ih =>
    have hstep := generator_dvd_directBit a (bits.foldl (directBit a) crc) b h1 h2
    have hsum := dvd_add (ih.mul_left X) hstep
    rw [bitsPoly_concat, List.foldl_append, List.length_append]
    convert hsum using 1
    simp only [List.length_singleton, List.foldl_cons, List.foldl_nil]
    ring

/-- The end of R150 reads only the low `width` bits of the register. -/
theorem directFinish_and_mask (a : CrcParams) (crc : Word) (h1 : 1 ≤ a.width) (h2 : a.width ≤ 64) :
    directFinish a (crc &&& mask a.width) = directFinish a crc := by
  apply BitVec.eq_of_getLsbD_eq
  intro i _
  simp only [directFinish, BitVec.getLsbD_and, BitVec.getLsbD_xor, mask_getLsbD a.width _ h1 h2]
  by_cases hi : i < a.width
  · have hr : a.width - 1 - i < a.width := by omega
    split <;> simp [reflect_getLsbD _ _ _ h2, mask_getLsbD a.width _ h1 h2, hi, hr]
  · simp [hi]

/-- Settles O27: the low bits of the register are the remainder, step by step of the long division. -/
theorem directEngineDividesPolynomials : Obligations.DirectEngineDividesPolynomials := by
  intro a bytes h1 h2
  let crc := bytes.foldl (directByte a) a.init
  have hdvd := generator_dvd_foldl_directBit a a.init (messageBits a.refIn bytes) h1 h2
  rw [messageBits_length, ← foldl_directByte_eq] at hdvd
  refine ⟨crc &&& mask a.width, ?_, ?_, (directFinish_and_mask a crc h1 h2).symm⟩
  · rw [and_mask_toNat crc a.width h1 h2]
    exact Nat.mod_lt _ (Nat.two_pow_pos _)
  · rw [polyOf_and_mask a.width crc h1 h2]
    exact hdvd

end Sys2Proof.Statements
end

section
/-! What a command and a step can do, said once: `Performs` for the commands, `StepsTo` for a step of the whole machine
(spec/70_reset_and_hazards.md R224, R225, R227). The frame, invariant and safety statements are case splits over the two. -/

namespace Sys2Proof.Machine

open Sys2Proof.Statements (EngineTurn isCrcCommand)

/-! ### The commands -/

/-- The states a command may end in, from `s`: an error that writes nothing else, UNINIT, VALID and TVALID cleared, a new
calculator, a name in ONAME, or a RESULT. Which error a command raises, and when, is not said here. -/
inductive Performs (s : State) : Instr → State → Prop where
  | error {i : Instr} (code : ErrCode) : Performs s i (complete code s)
  | uninit {i : Instr} : Performs s i { recordFault .uninit s with busy := false }
  | cleared {i : Instr} (hi : i = .cfg ∨ i = .lookup) (code : ErrCode) : Performs s i (complete code (clearValid s))
  | configured (h1 : 1 ≤ s.staging.width.toNat) (h2 : s.staging.width.toNat ≤ 64) :
      Performs s .cfg (complete .ok (construct s.staging.width.toNat s.staging.poly s.staging.init s.staging.xorOut
        s.staging.refIn s.staging.refOut s.staging.check 0xFF s))
  | found {k : Nat} {v : Variant} (hv : s.cfg.catalog[k]? = some v) :
      Performs s .lookup (complete .ok (construct v.width v.poly v.init v.xorOut v.refIn v.refOut v.checkValue
        (BitVec.ofNat 8 k) s))
  | named {k : Nat} {v : Variant} (hv : s.cfg.catalog[k]? = some v) :
      Performs s (.enum k) (complete .ok
        { s with mem := s.mem.writeBytes onameBase (paddedName s.cfg.nameMax v.canonicalName),
                 onameLen := BitVec.ofNat 64 v.canonicalName.length })
  | reflected {w : Nat} (h1 : 1 ≤ w) (h2 : w ≤ 64) :
      Performs s (.reflect w) (complete .ok { s with result := reflect s.opa w })
  | crc {i : Instr} (hi : isCrcCommand i = true) (hv : s.act.valid = true) {r : Word} {bytes : List Byte}
      (hr : r = tableCrc s.act.params s.act.table bytes ∨ r = directCrc s.act.params bytes) (code : ErrCode) :
      Performs s i (complete code { s with result := r })

/-- Dispatch runs one of the two engines (R181). -/
theorem dispatchCrc_eq_table_or_direct (a : CrcParams) (t : Table) (bytes : List Byte) :
    dispatchCrc a t bytes = tableCrc a t bytes ∨ dispatchCrc a t bytes = directCrc a bytes := by
  obtain h | h := Nat.lt_or_ge 7 a.width
  · exact .inl (dispatchCrc_wide a t bytes h)
  · exact .inr (dispatchCrc_narrow a t bytes h)

theorem calculateMessage_performs {engine : List Byte → Word} {i : Instr} {s t : State} (hi : isCrcCommand i = true)
    (hv : s.act.valid = true)
    (he : ∀ bytes, engine bytes = tableCrc s.act.params s.act.table bytes ∨ engine bytes = directCrc s.act.params bytes)
    (h : calculateMessage engine s = .next t) : Performs s i t := by
  obtain ⟨-, hc⟩ | ⟨-, -, hc⟩ | ⟨bytes, -, -, hc⟩ := calculateMessage_cases engine s <;> cases hc.symm.trans h
  · exact .error _
  · exact .uninit
  · exact .crc hi hv (he bytes) _

theorem execCrc_without_calculator {i : Instr} {s : State} (hi : isCrcCommand i = true) (hv : s.act.valid = false) :
    exec i s = .next (complete .noCalc s) := by
  obtain ⟨hcalc, hcalct, hcalcd, hcheck⟩ := calculations_without_calculator s hv
  cases i with
  | calculate => exact hcalc
  | calct => exact hcalct
  | calcd => exact hcalcd
  | check => exact hcheck
  | cfg | lookup | enum | reflect => cases hi

/-- What CALC, CALCT, CALCD and CHECK can do. -/
theorem execCrc_performs {i : Instr} {s t : State} (hi : isCrcCommand i = true) (h : exec i s = .next t) :
    Performs s i t := by
  have hdispatch := dispatchCrc_eq_table_or_direct s.act.params s.act.table
  cases hv : s.act.valid with
  | false =>
    cases (execCrc_without_calculator hi hv).symm.trans h
    exact .error _
  | true =>
    cases i with
    | calculate => exact calculateMessage_performs hi hv hdispatch ((execCalc_valid s hv).symm.trans h)
    | calcd => exact calculateMessage_performs hi hv (fun _ => .inr rfl) ((execCalcd_valid s hv).symm.trans h)
    | calct =>
      obtain hw | hw := Nat.lt_or_ge 7 s.act.width.toNat
      · exact calculateMessage_performs hi hv (fun _ => .inl rfl) ((execCalct_wide s hv hw).symm.trans h)
      · cases (execCalct_narrow s hv hw).symm.trans h
        exact .error _
    | check =>
      cases (execCheck_valid s hv).symm.trans h
      exact .crc hi hv (hdispatch kat) _
    | cfg | lookup | enum | reflect => cases hi

/-- What every command can do. -/
theorem exec_performs {i : Instr} {s t : State} (h : exec i s = .next t) : Performs s i t := by
  cases i with
  | cfg =>
    obtain ⟨-, hc⟩ | ⟨⟨h1, h2⟩, hc⟩ := execCfg_cases s <;> cases hc.symm.trans h
    · exact .cleared (.inl rfl) _
    · exact .configured h1 h2
  | lookup =>
    obtain ⟨-, hc⟩ | ⟨-, -, hc⟩ | ⟨q, -, -, -, hc⟩ | ⟨q, k, v, -, -, hf, hc⟩ := execLookup_cases s <;>
      cases hc.symm.trans h
    · exact .cleared (.inr rfl) _
    · exact .uninit
    · exact .cleared (.inr rfl) _
    · obtain ⟨j, rfl, hv, -⟩ := (findVariant_eq_some q 0 _ k v).1 hf
      exact .found (by simpa using hv)
  | enum k =>
    obtain ⟨-, hc⟩ | ⟨v, hv, hc⟩ := execEnum_cases k s <;> cases hc.symm.trans h
    · exact .error _
    · exact .named hv
  | reflect w =>
    obtain ⟨-, hc⟩ | ⟨⟨h1, h2⟩, hc⟩ := execReflect_cases w s <;> cases hc.symm.trans h
    · exact .error _
    · exact .reflected h1 h2
  | calculate | calct | calcd | check => exact execCrc_performs rfl h

/-! ### The HOST -/

/-- A host read is an access error that returns 0, or changes only what the HOST has read and seen and the count of draws. -/
theorem hostRead_effect (a n : Nat) (s : State) :
    (readTarget s a n = none ∧ hostRead a n s = observe 0 (accessError s)) ∨
    ∃ v d e, (e = s.unseen ∨ s.busy = false) ∧
      hostRead a n s = { s with reads := s.reads ++ [v], draws := d, unseen := e } := by
  obtain h | ⟨t, -, -, h⟩ | ⟨t, -, hb, h⟩ := hostRead_cases a n s
  · exact .inl h
  · obtain ⟨v, d, hs⟩ := readBusy_shape t s
    exact .inr ⟨v, d, _, .inl rfl, h.trans hs⟩
  · obtain ⟨v, d, hs⟩ := readIdle_shape t s
    exact .inr ⟨v, d, _, .inr hb, h.trans hs⟩

/-- What a target says of the access that resolves to it (R60, R62). -/
def TargetOf (cfg : Config) (a n : Nat) : Target → Prop
  | .reg r => n = 8 ∧ a = regOffset r
  | .nameByte i => n = 1 ∧ a = nameBase + i ∧ i < cfg.nameMax
  | .onameByte i => n = 1 ∧ a = onameBase + i ∧ i < cfg.nameMax
  | .tableEntry i => n = 8 ∧ a = tableBase + 8 * i.toNat
  | .bufByte i => n = 1 ∧ a = bufBase + i ∧ i < cfg.bufSize

theorem targetOf_resolve {cfg : Config} {a n : Nat} {t : Target} (h : resolve cfg a n = some t) :
    TargetOf cfg a n t := by
  unfold resolve at h
  split at h
  · rename_i hn
    split at h
    · rename_i ha
      split at h
      · cases h
        refine ⟨hn, ?_⟩
        simp only [tableBase, tableEntries, BitVec.toNat_ofNat] at ha ⊢
        omega
      · cases h
    · obtain ⟨r, hr, rfl⟩ := Option.map_eq_some_iff.1 h
      exact ⟨hn, (regOffset_of_regAt hr).symm⟩
  · split at h
    · rename_i hn
      split at h
      · cases h
        exact ⟨hn, by omega, by omega⟩
      · split at h
        · cases h
          exact ⟨hn, by omega, by omega⟩
        · split at h
          · cases h
            exact ⟨hn, by omega, by omega⟩
          · cases h
    · cases h

/-- A host write is an access error, a hazard, or an idle store to a writable register or to a byte of NAME or BUF. -/
theorem hostWrite_effect (a n : Nat) (v : Word) (s : State) :
    (writeTarget s a n = none ∧ hostWrite a n v s = accessError s) ∨
    (s.busy = true ∧ hostWrite a n v s = hazard s) ∨
    (s.busy = false ∧ ∃ r, n = 8 ∧ a = regOffset r ∧ regRight r ≠ .ro ∧ hostWrite a n v s = writeReg r v s) ∨
    (s.busy = false ∧ n = 1 ∧ byteWindow s.cfg a = true ∧ hostWrite a n v s = memWrite s a (v.setWidth 8)) := by
  obtain h | ⟨t, -, hb, h⟩ | ⟨t, ht, hb, h⟩ := hostWrite_cases a n v s
  · exact .inl h
  · exact .inr (.inl ⟨hb, h⟩)
  · obtain ⟨hres, hw⟩ := writeTarget_eq_some.1 ht
    have hof := targetOf_resolve hres
    cases t with
    | reg r =>
      obtain ⟨hn, ha⟩ := hof
      exact .inr (.inr (.inl ⟨hb, r, hn, ha, by simpa [writable] using hw, h⟩))
    | nameByte i =>
      obtain ⟨hn, rfl, hi⟩ := hof
      exact .inr (.inr (.inr ⟨hb, hn, by simp [byteWindow, hi], h⟩))
    | bufByte i =>
      obtain ⟨hn, rfl, hi⟩ := hof
      exact .inr (.inr (.inr ⟨hb, hn, by simp [byteWindow, hi], h⟩))
    | onameByte i => cases hw
    | tableEntry i => cases hw

/-- A register write reaches CMD, BUSY, the flag for what the HOST has seen, and the registers with right RW; nothing else. -/
theorem writeReg_frame (r : Reg) (v : Word) (s : State) :
    writeReg r v s = { s with
      cmd := (writeReg r v s).cmd, busy := (writeReg r v s).busy, unseen := (writeReg r v s).unseen,
      opa := (writeReg r v s).opa, len := (writeReg r v s).len, nameLen := (writeReg r v s).nameLen,
      staging := (writeReg r v s).staging } := by
  cases r <;> rfl

/-! ### The step -/

/-- The states one step may reach from `s`: the reset, the ENGINE's turn (nothing pending, an illegal word, a command), or
a host transaction (an access error, a read, a hazard, a register write, a byte write). -/
inductive StepsTo (s : State) : State → Prop where
  | reset {rest : List Event} (he : s.events = .reset :: rest) : StepsTo s (resetBlock { s with events := rest })
  | stutter {rest : List Event} (turn : EngineTurn s rest) (hb : s.busy = false) : StepsTo s { s with events := rest }
  | illegal {rest : List Event} (turn : EngineTurn s rest) (hb : s.busy = true) {why : Illegal}
      (hd : decode s.cmd = .illegal why) : StepsTo s (complete .illegal { s with events := rest })
  | command {rest : List Event} (turn : EngineTurn s rest) (hb : s.busy = true) {i : Instr}
      (hd : decode s.cmd = .command i) {t : State} (hp : Performs { s with events := rest } i t) : StepsTo s t
  | accessError {e : Event} {rest : List Event} (he : s.events = e :: rest) (out : List Word) :
      StepsTo s (accessError { s with events := rest, reads := s.reads ++ out })
  | read {a n : Nat} {rest : List Event} (he : s.events = .read a n :: rest) (v : Word) (d : Nat) {e : Bool}
      (hu : e = s.unseen ∨ s.busy = false) :
      StepsTo s { s with events := rest, reads := s.reads ++ [v], draws := d, unseen := e }
  | hazard {a n : Nat} {v : Word} {rest : List Event} (he : s.events = .write a n v :: rest) (hb : s.busy = true) :
      StepsTo s (hazard { s with events := rest })
  | writeReg {r : Reg} {v : Word} {rest : List Event} (he : s.events = .write (regOffset r) 8 v :: rest)
      (hb : s.busy = false) (hr : regRight r ≠ .ro) : StepsTo s (writeReg r v { s with events := rest })
  | writeByte {a : Nat} {v : Word} {rest : List Event} (he : s.events = .write a 1 v :: rest) (hb : s.busy = false)
      (ha : byteWindow s.cfg a = true) : StepsTo s (memWrite { s with events := rest } a (v.setWidth 8))

theorem engineStep_illegal {s : State} {why : Illegal} (h : decode s.cmd = .illegal why) :
    engineStep s = .next (complete .illegal s) := by
  rw [engineStep, h]
  rfl

theorem engineStep_command {s : State} {i : Instr} (h : decode s.cmd = .command i) : engineStep s = exec i s := by
  rw [engineStep, h]

/-- The ENGINE's turn, which comes as an event or with none left. -/
theorem engineTurn_stepsTo {s t : State} {rest : List Event} (turn : EngineTurn s rest)
    (h : applyEvent .engine { s with events := rest } = .next t) : StepsTo s t := by
  cases hb : s.busy with
  | false =>
    rw [applyEvent, if_neg (by simp [hb])] at h
    cases h
    exact .stutter turn hb
  | true =>
    rw [applyEvent, if_pos hb] at h
    cases hd : decode s.cmd with
    | illegal why =>
      cases (engineStep_illegal (s := { s with events := rest }) hd).symm.trans h
      exact .illegal turn hb hd
    | command i =>
      rw [engineStep_command (s := { s with events := rest }) hd] at h
      exact .command turn hb hd (exec_performs h)

/-- What one step can do. -/
theorem step_stepsTo {s t : State} (h : step s = .next t) : StepsTo s t := by
  cases hs : s.events with
  | nil =>
    refine engineTurn_stepsTo (rest := []) (.inl ⟨hs, rfl⟩) ?_
    rw [← hs, ← h, step_nil s hs]
    rfl
  | cons e rest =>
    rw [step_cons s hs] at h
    cases e with
    | engine => exact engineTurn_stepsTo (.inr hs) h
    | reset =>
      cases h
      exact .reset hs
    | read a n =>
      cases h
      obtain ⟨-, hr⟩ | ⟨v, d, e, he, hr⟩ := hostRead_effect a n { s with events := rest } <;> rw [hr]
      · exact .accessError hs [0]
      · exact .read hs v d he
    | write a n v =>
      cases h
      obtain ⟨-, hr⟩ | ⟨hb, hr⟩ | ⟨hb, r, rfl, rfl, ho, hr⟩ | ⟨hb, rfl, ha, hr⟩ :=
        hostWrite_effect a n v { s with events := rest } <;> rw [hr]
      · simpa using StepsTo.accessError hs []
      · exact .hazard hs hb
      · exact .writeReg hs hb ho
      · exact .writeByte hs hb ha

end Sys2Proof.Machine
end

section
/-! The invariant (spec/10_state.md R36, R39, R42, R44; spec/41_catalog.md R121): a reset establishes it and every step
keeps it. -/

namespace Sys2Proof.Machine

theorem stateInv_resetOf {cfg : Config} (h : catalogWf cfg = true) : StateInv (State.resetOf cfg) :=
  ⟨h, ⟨nofun, fun _ => rfl⟩, nofun, ⟨rfl, rfl⟩, ⟨rfl, rfl, rfl⟩, nofun⟩

/-- VALID and TVALID cleared is no calculator, of which the invariant asks nothing more. -/
theorem calcInv_of_cleared {c : Calculator} (hv : c.valid = false) (ht : c.tvalid = false) : CalcInv c :=
  ⟨fun h => by simp [hv] at h, fun _ => ht⟩

/-- Entry k of a well-formed catalogue, loaded under its index, has INDEX tell the truth (R36). -/
theorem construct_found_indexInv {s : State} (hcat : catalogWf s.cfg = true) {k : Nat} {v : Variant}
    (hv : s.cfg.catalog[k]? = some v) :
    IndexInv s.cfg (construct v.width v.poly v.init v.xorOut v.refIn v.refOut v.checkValue (BitVec.ofNat 8 k) s).act := by
  intro _ _
  obtain ⟨hp, hc⟩ := construct_wf_variant hcat (List.mem_of_getElem? hv) (BitVec.ofNat 8 k) s
  have hk : k < s.cfg.catalog.length := (List.getElem?_eq_some_iff.1 hv).1
  have hlen := (catalogWf_length hcat).2
  have hidx : (BitVec.ofNat 8 k).toNat = k := by
    rw [BitVec.toNat_ofNat]
    exact Nat.mod_eq_of_lt (by omega)
  rw [construct_act_index, hidx, hv, hp, hc]
  rfl

/-- A byte stored in one of the three windows keeps the memories in form. -/
theorem memInv_write {cfg : Config} {m : Memory} {a : Nat} {b : Byte} (h : MemInv cfg m) (ha : byteWindow cfg a = true) :
    MemInv cfg (m.write a b) := by
  obtain ⟨hwf, hall⟩ := h
  refine ⟨Memory.wf_write m a b hwf, List.all_eq_true.2 fun c hc => ?_⟩
  obtain rfl | hc := Memory.mem_write hc
  · exact ha
  · exact List.all_eq_true.1 hall c hc

/-- ENUM's bytes lie in ONAME's window. -/
theorem memInv_writeBytes_oname {cfg : Config} {m : Memory} (h : MemInv cfg m) (n : Name) :
    MemInv cfg (m.writeBytes onameBase (paddedName cfg.nameMax n)) := by
  obtain ⟨hwf, hall⟩ := h
  refine ⟨Memory.wf_writeBytes m _ _ hwf, List.all_eq_true.2 fun c hc => ?_⟩
  obtain hc | hc := Memory.mem_writeBytes hc
  · rw [paddedName_length] at hc
    simp [byteWindow, hc]
  · exact List.all_eq_true.1 hall c hc

/-- Every command keeps the invariant. After it nothing is pending. -/
theorem performs_stateInv {i : Instr} {s t : State} (hp : Performs s i t) (h : StateInv s) : StateInv t := by
  obtain ⟨hcat, hcalc, hidx, hmem, hfault, -⟩ := h
  cases hp with
  | error code => exact ⟨hcat, hcalc, hidx, hmem, hfault, nofun⟩
  | uninit => exact ⟨hcat, hcalc, hidx, hmem, hfault, nofun⟩
  | cleared hi code => exact ⟨hcat, calcInv_of_cleared rfl rfl, nofun, hmem, hfault, nofun⟩
  | configured h1 h2 =>
    exact ⟨hcat, construct_calcInv _ _ _ _ _ _ _ _ _ h1 h2, fun _ hne => absurd rfl hne, hmem, hfault, nofun⟩
  | found hv =>
    obtain ⟨⟨h1, h2⟩, -, -⟩ := catalogWf_variant hcat (List.mem_of_getElem? hv)
    exact ⟨hcat, construct_calcInv _ _ _ _ _ _ _ _ _ h1 h2, construct_found_indexInv hcat hv, hmem, hfault, nofun⟩
  | named hv => exact ⟨hcat, hcalc, hidx, memInv_writeBytes_oname hmem _, hfault, nofun⟩
  | reflected h1 h2 => exact ⟨hcat, hcalc, hidx, hmem, hfault, nofun⟩
  | crc hi hv hr code => exact ⟨hcat, hcalc, hidx, hmem, hfault, nofun⟩

/-- An idle register write keeps the invariant: a command it issues is one whose end the HOST has yet to see. -/
theorem writeReg_stateInv {s : State} (r : Reg) (v : Word) (hb : s.busy = false) (h : StateInv s) :
    StateInv (writeReg r v s) := by
  obtain ⟨hcat, hcalc, hidx, hmem, hfault, -⟩ := h
  have hunseen : UnseenInv (writeReg r v s) := by
    intro hbusy
    cases r with
    | cmd => rfl
    | _ => exact absurd (hb.symm.trans hbusy) nofun
  rw [writeReg_frame] at hunseen ⊢
  exact ⟨hcat, hcalc, hidx, hmem, hfault, hunseen⟩

/-- Settles O3: nothing is stored, no calculator exists, and FAULTS is BADCAT's alone. -/
theorem resetMeetsInvariant : Obligations.ResetMeetsInvariant := fun _ h => stateInv_resetOf h

/-- Settles O4, by what one step can do. -/
theorem stepKeepsInvariant : Obligations.StepKeepsInvariant := by
  intro s t h hstep
  have ⟨hcat, hcalc, hidx, hmem, ⟨hhaz, haerr, hbad⟩, hunseen⟩ := h
  cases step_stepsTo hstep with
  | reset he => exact stateInv_resetOf hcat
  | stutter turn hb => exact h
  | illegal turn hb hd => exact ⟨hcat, hcalc, hidx, hmem, ⟨hhaz, haerr, hbad⟩, nofun⟩
  | command turn hb hd hp => exact performs_stateInv hp h
  | accessError he out => exact ⟨hcat, hcalc, hidx, hmem, ⟨hhaz, rfl, hbad⟩, hunseen⟩
  | read he v d hu =>
    refine ⟨hcat, hcalc, hidx, hmem, ⟨hhaz, haerr, hbad⟩, fun hbusy => ?_⟩
    obtain rfl | hb := hu
    · exact hunseen hbusy
    · exact absurd (hb.symm.trans hbusy) nofun
  | hazard he hb => exact ⟨hcat, hcalc, hidx, hmem, ⟨rfl, haerr, hbad⟩, hunseen⟩
  | writeReg he hb hr => exact writeReg_stateInv _ _ hb h
  | writeByte he hb ha => exact ⟨hcat, hcalc, hidx, memInv_write hmem ha, ⟨hhaz, haerr, hbad⟩, hunseen⟩

end Sys2Proof.Machine
end

section
/-! Frames and the rules of the whole machine (spec/10_state.md R24, R25, R40, R41, R44; spec/20_memory.md R64): what the
result commands and a step leave unchanged, and who changes the rest. -/

namespace Sys2Proof.Machine

open Sys2Proof.Statements (isCrcCommand)

/-! ### What the commands leave unchanged -/

/-- Only CFG and LOOKUP write the calculator. -/
theorem performs_act {i : Instr} {s t : State} (hp : Performs s i t) : t.act = s.act ∨ i = .cfg ∨ i = .lookup := by
  cases hp with
  | cleared hi code => exact .inr hi
  | configured h1 h2 => exact .inr (.inl rfl)
  | found hv => exact .inr (.inr rfl)
  | error | uninit | named | reflected | crc => exact .inl rfl

/-- No command writes outside ONAME's window. -/
theorem performs_read_outside_oname {i : Instr} {s t : State} (hp : Performs s i t) {a : Nat}
    (ha : a < onameBase ∨ onameBase + s.cfg.nameMax ≤ a) : memRead t a = memRead s a := by
  cases hp with
  | named hv =>
    refine (Memory.read_writeBytes s.mem onameBase _ a).trans (if_neg ?_)
    rw [paddedName_length]
    omega
  | error | uninit | cleared | configured | found | reflected | crc => rfl

/-- UNINIT is the only fault a command records. -/
theorem performs_faults {i : Instr} {s t : State} (hp : Performs s i t) :
    t.faults = s.faults ∨ t.faults = s.faults.add .uninit := by
  cases hp with
  | uninit => exact .inr rfl
  | error | cleared | configured | found | named | reflected | crc => exact .inl rfl

/-- No command writes STATUS.HAZ or STATUS.AERR. -/
theorem performs_status_bits {i : Instr} {s t : State} (hp : Performs s i t) : t.haz = s.haz ∧ t.aerr = s.aerr := by
  cases hp <;> exact ⟨rfl, rfl⟩

/-- Settles O39: the ways these commands can end, case by case. -/
theorem resultCommandsFrame : Obligations.ResultCommandsFrame := by
  intro i s t hi hx
  have hp := exec_performs hx
  have hfaults := performs_faults hp
  cases hp with
  | error | uninit | reflected | crc => exact ⟨rfl, hfaults, fun _ => rfl⟩
  | cleared hi' code => obtain rfl | rfl := hi' <;> simp [isCrcCommand] at hi
  | configured | found | named => simp [isCrcCommand] at hi

/-! ### CRC results -/

theorem and_mask_lt (v : Word) (w : Nat) (h1 : 1 ≤ w) (h2 : w ≤ 64) : (v &&& mask w).toNat < 2 ^ w := by
  rw [and_mask_toNat v w h1 h2]
  exact Nat.mod_lt _ (Nat.two_pow_pos w)

/-- Both engines end with the mask of the width (R140, R152 (a)). -/
theorem tableCrc_lt (a : CrcParams) (t : Table) (bytes : List Byte) (h1 : 1 ≤ a.width) (h2 : a.width ≤ 64) :
    (tableCrc a t bytes).toNat < 2 ^ a.width := and_mask_lt _ _ h1 h2

theorem directCrc_lt (a : CrcParams) (bytes : List Byte) (h1 : 1 ≤ a.width) (h2 : a.width ≤ 64) :
    (directCrc a bytes).toNat < 2 ^ a.width := and_mask_lt _ _ h1 h2

/-- Settles O36: a CRC command that writes RESULT writes what an engine ends with. -/
theorem crcResultsFitTheWidth : Obligations.CrcResultsFitTheWidth := by
  intro i s t hi hcalc hx
  cases exec_performs hx with
  | error | uninit | cleared | configured | found | named => exact .inl rfl
  | reflected => cases hi
  | crc _ hv hr code =>
    obtain ⟨⟨h1, h2⟩, -⟩ := hcalc.1 hv
    obtain rfl | rfl := hr
    · exact .inr (tableCrc_lt s.act.params _ _ h1 h2)
    · exact .inr (directCrc_lt s.act.params _ h1 h2)

/-! ### Two states that agree on what a calculation reads -/

/-- Two commands, from `s` to `t` and from `s'` to `t'`, end with the same RESULT and ERR, or each with its own old ones. -/
def EndAlike (s s' t t' : State) : Prop :=
  (t.result = t'.result ∨ (t.result = s.result ∧ t'.result = s'.result)) ∧
    (t.err = t'.err ∨ (t.err = s.err ∧ t'.err = s'.err))

theorem readBytes_congr {m m' : Memory} {a n : Nat} (h : ∀ i, i < n → m.read (a + i) = m'.read (a + i)) :
    m.readBytes a n = m'.readBytes a n := by
  refine Option.ext fun bs => ?_
  rw [Memory.readBytes_eq_some, Memory.readBytes_eq_some]
  exact and_congr_right fun _ => forall₂_congr fun i hi => by rw [h i hi]

/-- LEN bytes of BUF are one message when the two states agree on LEN and on every byte of BUF. -/
theorem messageBytes_congr {s s' : State} (hlen : s.len = s'.len) (hle : s.len.toNat ≤ s.cfg.bufSize)
    (hbuf : ∀ j, j < s.cfg.bufSize → memRead s (bufBase + j) = memRead s' (bufBase + j)) :
    messageBytes s = messageBytes s' := by
  rw [messageBytes, messageBytes, ← hlen]
  exact readBytes_congr fun i hi => hbuf i (by omega)

/-- The shared end of CALC, CALCT and CALCD depends on LEN and BUF only. -/
theorem calculateMessage_endAlike (engine : List Byte → Word) {s s' t t' : State} (hlen : s.len = s'.len)
    (hsize : s.cfg.bufSize = s'.cfg.bufSize)
    (hbuf : ∀ j, j < s.cfg.bufSize → memRead s (bufBase + j) = memRead s' (bufBase + j))
    (h : calculateMessage engine s = .next t) (h' : calculateMessage engine s' = .next t') : EndAlike s s' t t' := by
  have hrange : lenOutOfRange s' = lenOutOfRange s := by rw [lenOutOfRange, lenOutOfRange, hlen, hsize]
  rw [calculateMessage] at h h'
  by_cases hl : lenOutOfRange s = true
  · rw [if_pos hl] at h
    rw [if_pos (hrange.trans hl)] at h'
    cases h
    cases h'
    exact ⟨.inr ⟨rfl, rfl⟩, .inl rfl⟩
  · rw [if_neg hl] at h
    rw [if_neg (hrange ▸ hl), ← messageBytes_congr hlen (by simpa [lenOutOfRange] using hl) hbuf] at h'
    cases hm : messageBytes s with
    | none =>
      rw [hm] at h h'
      cases h
      cases h'
      exact ⟨.inr ⟨rfl, rfl⟩, .inr ⟨rfl, rfl⟩⟩
    | some bytes =>
      rw [hm] at h h'
      cases h
      cases h'
      exact ⟨.inl rfl, .inl rfl⟩

/-- Settles O37: each CRC command is a function of the calculator alone, or goes through the shared end. -/
theorem calculationsArePure : Obligations.CalculationsArePure := by
  intro i s s' t t' hi hact hlen hsize hbuf h h'
  cases hv : s.act.valid with
  | false =>
    cases (execCrc_without_calculator hi hv).symm.trans h
    cases (execCrc_without_calculator hi (hact ▸ hv)).symm.trans h'
    exact ⟨.inr ⟨rfl, rfl⟩, .inl rfl⟩
  | true =>
    have hv' : s'.act.valid = true := hact ▸ hv
    cases i with
    | calculate =>
      rw [exec, execCalc_valid s hv] at h
      rw [exec, execCalc_valid s' hv', ← hact] at h'
      exact calculateMessage_endAlike _ hlen hsize hbuf h h'
    | calcd =>
      rw [exec, execCalcd_valid s hv] at h
      rw [exec, execCalcd_valid s' hv', ← hact] at h'
      exact calculateMessage_endAlike _ hlen hsize hbuf h h'
    | calct =>
      obtain hw | hw := Nat.lt_or_ge 7 s.act.width.toNat
      · rw [exec, execCalct_wide s hv hw] at h
        rw [exec, execCalct_wide s' hv' (hact ▸ hw), ← hact] at h'
        exact calculateMessage_endAlike _ hlen hsize hbuf h h'
      · cases (execCalct_narrow s hv hw).symm.trans h
        cases (execCalct_narrow s' hv' (hact ▸ hw)).symm.trans h'
        exact ⟨.inr ⟨rfl, rfl⟩, .inl rfl⟩
    | check =>
      rw [exec, execCheck_valid s hv] at h
      rw [exec, execCheck_valid s' hv', ← hact] at h'
      cases h
      cases h'
      exact ⟨.inl rfl, .inl rfl⟩
    | cfg | lookup | enum | reflect => cases hi

/-! ### Every step -/

/-- Settles O42, by what one step can do. -/
theorem onlyCfgAndLookupChangeCalculator : Obligations.OnlyCfgAndLookupChangeCalculator := by
  intro s t h hne
  cases step_stepsTo h with
  | reset he => exact .inl ⟨_, he⟩
  | command turn hb hd hp =>
    obtain hact | rfl | rfl := performs_act hp
    · exact absurd hact hne
    · exact .inr ⟨hb, ⟨_, turn⟩, .inl hd⟩
    · exact .inr ⟨hb, ⟨_, turn⟩, .inr hd⟩
  | @writeReg r v rest he hb hr => exact absurd (by rw [writeReg_frame]) hne
  | stutter | illegal | accessError | read | hazard | writeByte => exact absurd rfl hne

/-- Settles O43: only a byte write stores outside ONAME's window, and at its own address. -/
theorem onlyTheHostWritesBufAndName : Obligations.OnlyTheHostWritesBufAndName := by
  intro s t a h ha hne
  cases step_stepsTo h with
  | reset he => exact .inl ⟨_, he⟩
  | command turn hb hd hp => exact absurd (performs_read_outside_oname hp ha) hne
  | @writeReg r v rest he hb hr => exact absurd (by rw [writeReg_frame]; rfl) hne
  | @writeByte b v rest he hb hw =>
    obtain rfl | hab := eq_or_ne a b
    · exact .inr ⟨v, rest, he⟩
    · exact absurd (Memory.read_write_other s.mem _ hab) hne
  | stutter | illegal | accessError | read | hazard => exact absurd rfl hne

/-- Adding a fault removes none (R44). -/
theorem has_add_of_has {f : FaultSet} {j : Fault} (k : Fault) (h : f.has j = true) : (f.add k).has j = true := by
  rw [FaultSet.has_add, h, Bool.true_or]

/-- Settles O45: what a step adds to FAULTS it adds to what was there. -/
theorem faultsAreStickyUntilReset : Obligations.FaultsAreStickyUntilReset := by
  intro s t f h hne
  cases step_stepsTo h with
  | reset he => exact absurd he (hne _)
  | command turn hb hd hp =>
    obtain ⟨hhaz, haerr⟩ := performs_status_bits hp
    refine ⟨fun hf => ?_, hhaz.trans, haerr.trans⟩
    obtain hfaults | hfaults := performs_faults hp <;> rw [hfaults]
    · exact hf
    · exact has_add_of_has .uninit hf
  | accessError he out => exact ⟨has_add_of_has .aerr, id, fun _ => rfl⟩
  | hazard he hb => exact ⟨has_add_of_has .haz, fun _ => rfl, id⟩
  | @writeReg r v rest he hb hr =>
    rw [writeReg_frame]
    exact ⟨id, id, id⟩
  | stutter | illegal | read | writeByte => exact ⟨id, id, id⟩

theorem decode_of_decodeTableWord {nbits w : Nat} {i : Instr} (h : decodeTableWord nbits w = some i) :
    decode (BitVec.ofNat 64 (w % 2 ^ nbits)) = .command i := by
  rw [decodeTableWord] at h
  split at h
  · rename_i j hj
    cases h
    exact hj
  · cases h

/-- Settles O7: the word placed is the command the ENGINE decodes in its turn. -/
theorem fetchWordRunsNext : Obligations.FetchWordRunsNext := by
  intro s nbits w i h
  rw [step_cons _ (withFetchWord_events s nbits w), applyEvent, if_pos (withFetchWord_busy s nbits w)]
  exact engineStep_command (decode_of_decodeTableWord h)

end Sys2Proof.Machine
end

section
/-! The HOST port (spec/10_state.md R24, R30, R33, R36; spec/20_memory.md R60, R63, R67): what registers, TABLE and a byte
read as after an access, and the packed registers as numbers. -/

namespace Sys2Proof.Machine

/-! ### Idle transactions -/

theorem hostRead_idle {s : State} {a n : Nat} {t : Target} (ht : readTarget s a n = some t) (hb : s.busy = false) :
    hostRead a n s = readIdle t s := by
  rw [hostRead, ht]
  simp [hb]

theorem hostRead_error {s : State} {a n : Nat} (ht : readTarget s a n = none) :
    hostRead a n s = observe 0 (accessError s) := by
  rw [hostRead, ht]

theorem hostWrite_idle {s : State} {a n : Nat} {t : Target} (v : Word) (ht : writeTarget s a n = some t)
    (hb : s.busy = false) : hostWrite a n v s = store t v s := by
  rw [hostWrite, ht]
  simp [hb]

/-! ### Packed registers -/

theorem toNat_append_eq_add {m n : Nat} (x : BitVec m) (y : BitVec n) : (x ++ y).toNat = 2 ^ n * x.toNat + y.toNat := by
  rw [BitVec.toNat_append, ← Nat.shiftLeft_add_eq_or_of_lt y.isLt, Nat.shiftLeft_eq, Nat.mul_comm]

/-- Settles O56: each register is the sum of its fields, each times the weight of its lowest bit. -/
theorem packedRegisterLayouts : Obligations.PackedRegisterLayouts := by
  refine ⟨fun s => ?_, fun c => ?_, fun p => ?_, fun c h => ?_⟩
  · simp only [statusWord, toNat_append_eq_add, BitVec.toNat_ofBool, BitVec.toNat_ofNat]
    omega
  · simp only [aFlagsWord, toNat_append_eq_add, BitVec.toNat_ofBool, BitVec.toNat_ofNat]
    omega
  · simp only [pFlagsWord, toNat_append_eq_add, BitVec.toNat_ofBool, BitVec.toNat_ofNat]
    omega
  · simp only [configWf, Bool.and_eq_true, decide_eq_true_eq] at h
    obtain ⟨⟨⟨-, hbuf⟩, hname⟩, hcat⟩ := h
    have hlen := (catalogWf_length hcat).2
    simp only [capsWord, toNat_append_eq_add, BitVec.toNat_ofNat]
    omega

/-- P_FLAGS after a write shows the two bits kept (R33). -/
theorem pFlagsWord_setPFlags (p : Staging) (v : Word) : pFlagsWord (setPFlags p v) = v &&& 3 := by
  apply BitVec.eq_of_getLsbD_eq
  intro i hi
  rw [show (3 : Word) = mask 2 from rfl, BitVec.getLsbD_and, mask_getLsbD 2 i (by omega) (by omega)]
  simp only [pFlagsWord, setPFlags, BitVec.getLsbD_append]
  match i with
  | 0 => simp
  | 1 => simp
  | i + 2 => simp

/-- BUSY is bit 0 of STATUS (R24). -/
theorem statusWord_of_busy {s : State} (hb : s.busy = false) (t : State) (ht : t.busy = true) (he : t.err = s.err)
    (ha : t.aerr = s.aerr) (hz : t.haz = s.haz) : statusWord t = statusWord s ||| 1 := by
  rw [statusWord, statusWord, hb, ht, he, ha, hz, show (1 : Word) = 0#63 ++ 1#1 from rfl, BitVec.or_append]
  simp

/-! ### Register writes -/

theorem resolve_regOffset (cfg : Config) (r : Reg) : resolve cfg (regOffset r) 8 = some (.reg r) := by
  have hlt := regOffset_lt r
  rw [resolve, if_pos rfl, if_neg (by simp only [tableBase]; omega), regAt_regOffset]
  rfl

theorem readReg_writeReg_same (r : Reg) (v : Word) (s : State) (hr : regRight r ≠ .ro) :
    readReg r (writeReg r v s) = if r = .pFlags then v &&& 3 else v := by
  cases r with
  | pFlags => exact pFlagsWord_setPFlags s.staging v
  | cmd | opa | len | nameLen | pWidth | pPoly | pInit | pXorout | pCheck => rfl
  | status | result | onameLen | caps | aWidth | aPoly | aInit | aXorout | aFlags | aCheck | aMask | aHighbit =>
    exact absurd rfl hr

/-- A register other than STATUS shows no field that a write of another register reaches: each pair of registers has two
fields, or is excluded. -/
theorem readReg_writeReg_other {r r' : Reg} (v : Word) (s : State) (hne : r' ≠ r) (hs : r' ≠ .status) :
    readReg r' (writeReg r v s) = readReg r' s := by
  cases r with
  | status | result | onameLen | caps | aWidth | aPoly | aInit | aXorout | aFlags | aCheck | aMask | aHighbit => rfl
  | cmd | opa | len | nameLen | pWidth | pPoly | pInit | pXorout | pFlags | pCheck =>
    cases r' <;> first | rfl | contradiction

theorem statusWord_writeReg (r : Reg) (v : Word) (s : State) (hb : s.busy = false) :
    statusWord (writeReg r v s) = if r = .cmd then statusWord s ||| 1 else statusWord s := by
  cases r with
  | cmd => exact statusWord_of_busy hb _ rfl rfl rfl rfl
  | _ => rfl

theorem writeReg_unseen (r : Reg) (v : Word) (s : State) :
    (writeReg r v s).unseen = true ↔ r = .cmd ∨ s.unseen = true := by
  cases r with
  | cmd => exact iff_of_true rfl (.inl rfl)
  | _ => simp [writeReg]

/-- An idle write of a writable register. -/
theorem step_writeReg {s : State} {r : Reg} {v : Word} {rest : List Event}
    (he : s.events = .write (regOffset r) 8 v :: rest) (hb : s.busy = false) (hr : regRight r ≠ .ro) :
    step s = .next (writeReg r v { s with events := rest }) := by
  have ht : writeTarget { s with events := rest } (regOffset r) 8 = some (.reg r) :=
    writeTarget_eq_some.2 ⟨resolve_regOffset _ r, by simpa [writable] using hr⟩
  rw [step_cons s he, applyEvent, hostWrite_idle v ht hb, store]

/-- Settles O54, from what each field of a register write is. -/
theorem registerWritesReadBack : Obligations.RegisterWritesReadBack := by
  intro s r v rest he hb hr
  refine ⟨_, step_writeReg he hb hr, readReg_writeReg_same r v _ hr, fun r' hne hs => ?_, statusWord_writeReg r v _ hb, ?_⟩
  · rw [readReg_writeReg_other v _ hne hs]
    cases r' <;> rfl
  · have hunseen := writeReg_unseen r v { s with events := rest }
    rw [writeReg_frame] at hunseen ⊢
    exact ⟨rfl, rfl, rfl, rfl, rfl, rfl, rfl, hunseen⟩

/-- Settles O55: a one-byte write that is well-formed stores at its own address. -/
theorem byteWritesStoreOneByte : Obligations.ByteWritesStoreOneByte := by
  intro s a v rest _ he hb hw
  have hstep : step s = .next (hostWrite a 1 v { s with events := rest }) := step_cons s he
  obtain ⟨hnone, -⟩ | ⟨hbusy, -⟩ | ⟨-, r, h8, -⟩ | ⟨-, -, -, hstore⟩ := hostWrite_effect a 1 v { s with events := rest }
  · exact absurd hnone hw
  · exact absurd (hb.symm.trans hbusy) nofun
  · cases h8
  · rw [hstore] at hstep
    exact ⟨_, hstep, Memory.read_write_same _ _ _, fun _ hne => Memory.read_write_other _ _ hne, Memory.wf_write _ _ _⟩

/-! ### TABLE reads -/

theorem resolve_tableEntry (cfg : Config) (i : Byte) : resolve cfg (tableBase + 8 * i.toNat) 8 = some (.tableEntry i) := by
  have hi := i.isLt
  rw [resolve, if_pos rfl, if_pos (by simp only [tableBase, tableEntries]; omega), if_pos (by simp only [tableBase]; omega),
    Nat.add_sub_cancel_left, Nat.mul_div_cancel_left _ (by omega), BitVec.ofNat_toNat, BitVec.setWidth_eq]

/-- TABLE holds the table of the A_* registers while TVALID = 1 (R38, R39). -/
theorem tableAt_of_calcInv {c : Calculator} (h : CalcInv c) (hv : c.valid = true) (ht : c.tvalid = true) (i : Byte) :
    tableAt c.table i = tableEntry c.width.toNat c.poly c.refIn i := by
  obtain ⟨-, -, -, -, htable⟩ := h.1 hv
  rw [htable ht, tableAt_buildTable]

/-- Settles O53: TVALID decides whether the read is well-formed, and R39 says what TABLE then holds. -/
theorem tableReadsMatchTheCalculator : Obligations.TableReadsMatchTheCalculator := by
  intro s i rest hcalc he
  rw [step_cons s he, applyEvent]
  have hres := resolve_tableEntry s.cfg i
  refine ⟨fun hv ht hb hu => ?_, fun ht => ?_⟩
  · have htarget : readTarget { s with events := rest } (tableBase + 8 * i.toNat) 8 = some (.tableEntry i) :=
      readTarget_eq_some.2 ⟨hres, ht⟩
    rw [hostRead_idle htarget hb, readIdle_seen (.tableEntry i) { s with events := rest } (.inl hu) (by simp),
      ← tableAt_of_calcInv hcalc hv ht i]
    rfl
  · have htarget : readTarget { s with events := rest } (tableBase + 8 * i.toNat) 8 = none := by
      simp [readTarget, hres, readable, ht]
    rw [hostRead_error htarget]
    rfl

end Sys2Proof.Machine
end

section
/-! The table engine computes what the bit-serial engine does (spec/43_table_calc.md R140, R142; spec/44_direct.md R150),
and so the three calculation commands agree. A round of BuildTable is linear over XOR and is the bit step on a zero bit;
eight bit steps therefore split into the shift of the register's low bits and the table entry of its top byte. The working
registers keep unmasked high bits, so they are compared below the width only. -/

namespace Sys2Proof.Machine

/-! ### Words that agree below the width -/

/-- Two words have the same low w bits. -/
def AgreeBelow (w : Nat) (u v : Word) : Prop := ∀ k, k < w → u.getLsbD k = v.getLsbD k

theorem AgreeBelow.symm {w : Nat} {u v : Word} (h : AgreeBelow w u v) : AgreeBelow w v u := fun k hk => (h k hk).symm

theorem AgreeBelow.trans {w : Nat} {u v x : Word} (h : AgreeBelow w u v) (h' : AgreeBelow w v x) : AgreeBelow w u x :=
  fun k hk => (h k hk).trans (h' k hk)

theorem AgreeBelow.xor {w : Nat} {u u' v v' : Word} (h : AgreeBelow w u u') (h' : AgreeBelow w v v') :
    AgreeBelow w (u ^^^ v) (u' ^^^ v') := fun k hk => by
  rw [BitVec.getLsbD_xor, BitVec.getLsbD_xor, h k hk, h' k hk]

theorem AgreeBelow.shiftLeft {w : Nat} {u v : Word} (h : AgreeBelow w u v) (n : Nat) : AgreeBelow w (u <<< n) (v <<< n) :=
  fun k hk => by rw [BitVec.getLsbD_shiftLeft, BitVec.getLsbD_shiftLeft, h (k - n) (by omega)]

theorem AgreeBelow.and_mask {w : Nat} {u v : Word} (h : AgreeBelow w u v) (h1 : 1 ≤ w) (h2 : w ≤ 64) :
    u &&& mask w = v &&& mask w := by
  apply BitVec.eq_of_getLsbD_eq
  intro k _
  rw [BitVec.getLsbD_and, BitVec.getLsbD_and, mask_getLsbD w k h1 h2]
  by_cases hk : k < w
  · rw [h k hk]
  · simp [hk]

theorem agreeBelow_and_mask {w : Nat} (u : Word) (h1 : 1 ≤ w) (h2 : w ≤ 64) : AgreeBelow w (u &&& mask w) u :=
  fun k hk => by simp [mask_getLsbD w k h1 h2, hk]

/-- Reflect reads the low w bits only (R110). -/
theorem AgreeBelow.reflect_eq {w : Nat} {u v : Word} (h : AgreeBelow w u v) (h2 : w ≤ 64) : reflect u w = reflect v w := by
  apply BitVec.eq_of_getLsbD_eq
  intro k _
  rw [reflect_getLsbD u w k h2, reflect_getLsbD v w k h2]
  by_cases hk : k < w
  · rw [h _ (by omega)]
  · simp [hk]

theorem reflect_reflect_agreeBelow {w : Nat} (u : Word) (h2 : w ≤ 64) : AgreeBelow w (reflect (reflect u w) w) u :=
  fun k hk => by
    have hk' : w - 1 - k < w := by omega
    rw [reflect_getLsbD _ w k h2, reflect_getLsbD u w _ h2, show w - 1 - (w - 1 - k) = k by omega]
    simp [hk, hk']

theorem reflect_xor (u v : Word) {w : Nat} (h2 : w ≤ 64) : reflect (u ^^^ v) w = reflect u w ^^^ reflect v w := by
  apply BitVec.eq_of_getLsbD_eq
  intro k _
  simp only [BitVec.getLsbD_xor, reflect_getLsbD _ w k h2]
  cases decide (k < w) <;> simp

/-- Reflect has no bit at the width or above. -/
theorem reflect_and_mask (u : Word) {w : Nat} (h1 : 1 ≤ w) (h2 : w ≤ 64) : reflect u w &&& mask w = reflect u w := by
  apply BitVec.eq_of_getLsbD_eq
  intro k _
  rw [BitVec.getLsbD_and, mask_getLsbD w k h1 h2, reflect_getLsbD u w k h2]
  cases decide (k < w) <;> simp

theorem reflect_shiftLeft (u : Word) {w : Nat} (h2 : w ≤ 64) (n : Nat) : reflect (u <<< n) w = reflect u w >>> n := by
  apply BitVec.eq_of_getLsbD_eq
  intro k hk64
  rw [BitVec.getLsbD_ushiftRight, reflect_getLsbD _ w k h2, reflect_getLsbD u w _ h2, BitVec.getLsbD_shiftLeft]
  by_cases hk : n + k < w
  · have hlt : k < w ∧ w - 1 - k < 64 ∧ ¬w - 1 - k < n := by omega
    rw [show w - 1 - (n + k) = w - 1 - k - n by omega]
    simp [hk, hlt]
  · by_cases hw : k < w
    · have hlt : w - 1 - k < n := by omega
      simp [hk, hlt]
    · simp [hk, hw]

theorem reflectByte_xor (b c : Byte) : reflectByte (b ^^^ c) = reflectByte b ^^^ reflectByte c := by
  apply BitVec.eq_of_getLsbD_eq
  intro k _
  simp only [BitVec.getLsbD_xor, reflectByte_getLsbD]
  cases decide (k < 8) <;> simp

/-! ### Rounds -/

theorem tableRound_eq (w : Nat) (poly r : Word) (h1 : 1 ≤ w) (h2 : w ≤ 64) :
    tableRound w poly r = (r <<< 1) ^^^ (if r.getLsbD (w - 1) then poly else 0) := by
  have hbit := and_highBit_ne_zero r w h1 h2
  rw [tableRound, ← hbit]
  by_cases h : r &&& highBit w = 0
  · simp [h]
  · rw [if_pos h, if_pos (bne_iff_ne.2 h)]

theorem directBit_eq (a : CrcParams) (crc : Word) (b : Bool) (h1 : 1 ≤ a.width) (h2 : a.width ≤ 64) :
    directBit a crc b = (crc <<< 1) ^^^ (if crc.getLsbD (a.width - 1) != b then a.poly else 0) := by
  rw [directBit, and_highBit_ne_zero crc a.width h1 h2]
  split <;> simp

theorem tableRound_congr {w : Nat} {poly u v : Word} (h1 : 1 ≤ w) (h2 : w ≤ 64) (h : AgreeBelow w u v) :
    AgreeBelow w (tableRound w poly u) (tableRound w poly v) := by
  rw [tableRound_eq w poly u h1 h2, tableRound_eq w poly v h1 h2, h (w - 1) (by omega)]
  exact (h.shiftLeft 1).xor fun _ _ => rfl

theorem tableRounds_congr {w : Nat} {poly : Word} (h1 : 1 ≤ w) (h2 : w ≤ 64) (n : Nat) {u v : Word}
    (h : AgreeBelow w u v) : AgreeBelow w (tableRounds w poly n u) (tableRounds w poly n v) := by
  induction n generalizing u v with
  | zero => exact h
  | succ n ih => exact ih (tableRound_congr h1 h2 h)

/-- A round is linear over XOR. -/
theorem tableRound_xor (w : Nat) (poly u v : Word) (h1 : 1 ≤ w) (h2 : w ≤ 64) :
    tableRound w poly (u ^^^ v) = tableRound w poly u ^^^ tableRound w poly v := by
  simp only [tableRound_eq w poly _ h1 h2, BitVec.getLsbD_xor]
  have hpoly : (if u.getLsbD (w - 1) != v.getLsbD (w - 1) then poly else 0) =
      (if u.getLsbD (w - 1) then poly else 0) ^^^ (if v.getLsbD (w - 1) then poly else 0) := by
    cases u.getLsbD (w - 1) <;> cases v.getLsbD (w - 1) <;> simp
  rw [BitVec.shiftLeft_xor_distrib, hpoly]
  ac_rfl

theorem tableRounds_xor (w : Nat) (poly : Word) (h1 : 1 ≤ w) (h2 : w ≤ 64) (n : Nat) (u v : Word) :
    tableRounds w poly n (u ^^^ v) = tableRounds w poly n u ^^^ tableRounds w poly n v := by
  induction n generalizing u v with
  | zero => rfl
  | succ n ih => rw [tableRounds_succ, tableRound_xor w poly u v h1 h2, ih]; rfl

/-- Rounds on a register whose top n bits are 0 only shift it. -/
theorem tableRounds_of_top_zero {w : Nat} {poly : Word} (h1 : 1 ≤ w) (h2 : w ≤ 64) (n : Nat) {u : Word} (hn : n ≤ w)
    (htop : ∀ k, w - n ≤ k → k < w → u.getLsbD k = false) : tableRounds w poly n u = u <<< n := by
  induction n generalizing u with
  | zero => simp [tableRounds]
  | succ n ih =>
    have hround : tableRound w poly u = u <<< 1 := by
      rw [tableRound_eq w poly u h1 h2, htop (w - 1) (by omega) (by omega)]
      simp
    rw [tableRounds_succ, hround, ih (by omega) fun k hk hk' => ?_, ← BitVec.shiftLeft_add, Nat.add_comm]
    rw [BitVec.getLsbD_shiftLeft, htop (k - 1) (by omega) (by omega)]
    simp

/-- A bit step on the next message bit is a round on the register with the message bits XORed in at the top (R150). -/
theorem directBit_agree_tableRound (a : CrcParams) (c : Byte) (n : Nat) (crc x : Word) (h1 : 1 ≤ a.width)
    (h2 : a.width ≤ 64) (hn : n + 1 ≤ a.width)
    (hx : AgreeBelow a.width x (crc ^^^ c.setWidth 64 <<< (a.width - (n + 1)))) :
    AgreeBelow a.width (tableRound a.width a.poly x)
      (directBit a crc (c.getLsbD n) ^^^ c.setWidth 64 <<< (a.width - n)) := by
  have htop : x.getLsbD (a.width - 1) = (crc.getLsbD (a.width - 1) != c.getLsbD n) := by
    have hlt : a.width - 1 < 64 ∧ ¬a.width - 1 < a.width - (n + 1) ∧ n < 64 := by omega
    rw [hx _ (by omega), BitVec.getLsbD_xor, BitVec.getLsbD_shiftLeft, BitVec.getLsbD_setWidth,
      show a.width - 1 - (a.width - (n + 1)) = n by omega]
    simp [hlt]
  rw [tableRound_eq a.width a.poly x h1 h2, directBit_eq a crc _ h1 h2, htop]
  have hshift := hx.shiftLeft 1
  rw [BitVec.shiftLeft_xor_distrib, ← BitVec.shiftLeft_add, show a.width - (n + 1) + 1 = a.width - n by omega] at hshift
  convert hshift.xor fun _ _ => rfl using 1
  ac_rfl

theorem directBits_agree_tableRounds (a : CrcParams) (c : Byte) (h1 : 1 ≤ a.width) (h2 : a.width ≤ 64) (n : Nat)
    (hn : n ≤ a.width) (crc x : Word) (hx : AgreeBelow a.width x (crc ^^^ c.setWidth 64 <<< (a.width - n))) :
    AgreeBelow a.width (directBits a c n crc) (tableRounds a.width a.poly n x) := by
  induction n generalizing crc x with
  | zero =>
    refine AgreeBelow.symm (hx.trans fun k hk => ?_)
    simp [directBits, hk]
  | succ n ih => exact ih (by omega) _ _ (directBit_agree_tableRound a c n crc x h1 h2 hn hx)

/-! ### A byte -/

/-- A byte at the top of a w-bit register, as R131 starts a table entry. -/
def topByte (w : Nat) (b : Byte) : Word := b.setWidth 64 <<< (w - 8)

theorem topByte_getLsbD (b : Byte) {w k : Nat} (h1 : 8 ≤ w) (h2 : w ≤ 64) (hk : k < w) :
    (topByte w b).getLsbD k = (decide (w - 8 ≤ k) && b.getLsbD (k - (w - 8))) := by
  have hlt : k < 64 ∧ k - (w - 8) < 64 := by omega
  rw [topByte, BitVec.getLsbD_shiftLeft, BitVec.getLsbD_setWidth]
  by_cases h : w - 8 ≤ k
  · simp [hlt, h, Nat.not_lt.2 h]
  · simp [h, Nat.lt_of_not_le h]

/-- Shifted one byte on, it has left the register. -/
theorem topByte_shiftLeft_agreeBelow (b : Byte) {w : Nat} (h1 : 8 ≤ w) :
    AgreeBelow w (topByte w b <<< 8) 0 := fun k hk => by
  rw [topByte, ← BitVec.shiftLeft_add, Nat.sub_add_cancel h1]
  simp [hk]

/-- The table index of R140 step 2: the top byte of the register, with the message byte XORed in. -/
def topIndex (w : Nat) (crc : Word) (c : Byte) : Byte := (crc >>> (w - 8)).setWidth 8 ^^^ c

theorem topIndex_getLsbD (w : Nat) (crc : Word) (c : Byte) {k : Nat} (hk : k < 8) :
    (topIndex w crc c).getLsbD k = (crc.getLsbD (w - 8 + k) ^^ c.getLsbD k) := by
  simp [topIndex, hk]

theorem topIndex_congr {w : Nat} {u v : Word} (h : AgreeBelow w u v) (h1 : 8 ≤ w) (c : Byte) :
    topIndex w u c = topIndex w v c := by
  apply BitVec.eq_of_getLsbD_eq
  intro k hk
  rw [topIndex_getLsbD w u c hk, topIndex_getLsbD w v c hk, h _ (by omega)]

/-- The register with the message byte XORed in at the top, split into the part below its top byte and that byte. -/
theorem xor_topIndex_xor_topIndex (w : Nat) (crc : Word) (c : Byte) :
    (crc ^^^ topByte w c ^^^ topByte w (topIndex w crc c)) ^^^ topByte w (topIndex w crc c) = crc ^^^ topByte w c := by
  rw [BitVec.xor_assoc, BitVec.xor_self, BitVec.xor_zero]

theorem xor_topIndex_top_zero (c : Byte) (crc : Word) {w : Nat} (h1 : 8 ≤ w) (h2 : w ≤ 64) (k : Nat) (hk : w - 8 ≤ k)
    (hk' : k < w) : (crc ^^^ topByte w c ^^^ topByte w (topIndex w crc c)).getLsbD k = false := by
  rw [BitVec.getLsbD_xor, BitVec.getLsbD_xor, topByte_getLsbD c h1 h2 hk', topByte_getLsbD _ h1 h2 hk',
    topIndex_getLsbD _ _ _ (by omega), show w - 8 + (k - (w - 8)) = k by omega]
  cases crc.getLsbD k <;> simp [hk]

theorem xor_topIndex_shiftLeft (c : Byte) (crc : Word) {w : Nat} (h1 : 8 ≤ w) :
    AgreeBelow w ((crc ^^^ topByte w c ^^^ topByte w (topIndex w crc c)) <<< 8) (crc <<< 8) := fun k hk => by
  rw [BitVec.shiftLeft_xor_distrib, BitVec.shiftLeft_xor_distrib, BitVec.getLsbD_xor, BitVec.getLsbD_xor,
    topByte_shiftLeft_agreeBelow c h1 k hk, topByte_shiftLeft_agreeBelow _ h1 k hk]
  simp

/-- Eight bit steps shift the register by a byte and XOR in the rounds of its table index. -/
theorem directBits_eight (a : CrcParams) (c : Byte) (crc : Word) (h1 : 8 ≤ a.width) (h2 : a.width ≤ 64) :
    AgreeBelow a.width (directBits a c 8 crc)
      (crc <<< 8 ^^^ tableRounds a.width a.poly 8 (topByte a.width (topIndex a.width crc c))) := by
  have h1' : 1 ≤ a.width := by omega
  have hrounds := directBits_agree_tableRounds a c h1' h2 8 h1 crc (crc ^^^ topByte a.width c) fun _ _ => rfl
  rw [← xor_topIndex_xor_topIndex a.width crc c, tableRounds_xor a.width a.poly h1' h2,
    tableRounds_of_top_zero h1' h2 8 h1 (xor_topIndex_top_zero c crc h1 h2)] at hrounds
  exact hrounds.trans ((xor_topIndex_shiftLeft c crc h1).xor fun _ _ => rfl)

/-- The byte steps of the two engines, bytes not reflected: the registers agree below the width. -/
theorem tableByte_agree_directByte {a : CrcParams} (h1 : 8 ≤ a.width) (h2 : a.width ≤ 64) (hri : a.refIn = false)
    {t d : Word} (h : AgreeBelow a.width t d) (b : Byte) :
    AgreeBelow a.width (tableByte a (buildTable a.width a.poly a.refIn) t b) (directByte a d b) := by
  have hentry : AgreeBelow a.width (tableEntry a.width a.poly false (topIndex a.width t b))
      (tableRounds a.width a.poly 8 (topByte a.width (topIndex a.width d b))) := by
    rw [topIndex_congr h h1 b]
    exact agreeBelow_and_mask _ (by omega) h2
  rw [tableByte, directByte, hri, if_neg Bool.false_ne_true, if_neg Bool.false_ne_true, tableAt_buildTable]
  exact ((h.shiftLeft 8).xor hentry).trans (directBits_eight a b d h1 h2).symm

/-- The table index of a reflected register is the reflected one of the plain register. -/
theorem reflectByte_index_reflect (d : Word) (b : Byte) {w : Nat} (h1 : 8 ≤ w) (h2 : w ≤ 64) :
    reflectByte ((reflect d w).setWidth 8 ^^^ b) = topIndex w d (reflectByte b) := by
  apply BitVec.eq_of_getLsbD_eq
  intro k hk
  have hk' : 7 - k < 8 ∧ 7 - k < w := by omega
  rw [reflectByte_xor, BitVec.getLsbD_xor, topIndex_getLsbD w d _ hk, reflectByte_getLsbD, BitVec.getLsbD_setWidth,
    reflect_getLsbD d w _ h2, show w - 1 - (7 - k) = w - 8 + k by omega]
  simp [hk, hk']

/-- The byte steps of the two engines, bytes reflected: the table engine's register is the other's, reflected. -/
theorem tableByte_reflect_eq {a : CrcParams} (h1 : 8 ≤ a.width) (h2 : a.width ≤ 64) (hri : a.refIn = true)
    (d : Word) (b : Byte) :
    tableByte a (buildTable a.width a.poly a.refIn) (reflect d a.width) b = reflect (directByte a d b) a.width := by
  have hentry : tableEntry a.width a.poly true ((reflect d a.width).setWidth 8 ^^^ b) =
      reflect (tableRounds a.width a.poly 8 (topByte a.width (topIndex a.width d (reflectByte b)))) a.width := by
    rw [← reflectByte_index_reflect d b h1 h2]
    exact reflect_and_mask _ (by omega) h2
  rw [tableByte, directByte, hri, tableAt_buildTable, if_pos rfl, if_pos rfl, hentry,
    (directBits_eight a (reflectByte b) d h1 h2).reflect_eq h2, reflect_xor _ _ h2, reflect_shiftLeft d h2]

/-! ### A message -/

theorem foldl_tableByte_agree {a : CrcParams} (h1 : 8 ≤ a.width) (h2 : a.width ≤ 64) (hri : a.refIn = false)
    (bytes : List Byte) {t d : Word} (h : AgreeBelow a.width t d) :
    AgreeBelow a.width (bytes.foldl (tableByte a (buildTable a.width a.poly a.refIn)) t)
      (bytes.foldl (directByte a) d) := by
  induction bytes generalizing t d with
  | nil => exact h
  | cons b bs ih => exact ih (tableByte_agree_directByte h1 h2 hri h b)

theorem foldl_tableByte_reflect {a : CrcParams} (h1 : 8 ≤ a.width) (h2 : a.width ≤ 64) (hri : a.refIn = true)
    (bytes : List Byte) (d : Word) :
    bytes.foldl (tableByte a (buildTable a.width a.poly a.refIn)) (reflect d a.width) =
      reflect (bytes.foldl (directByte a) d) a.width := by
  induction bytes generalizing d with
  | nil => rfl
  | cons b bs ih => rw [List.foldl_cons, tableByte_reflect_eq h1 h2 hri, ih, List.foldl_cons]

/-- The ends of the two engines: after the final reflection the registers agree below the width, and the rest is the same. -/
theorem tableFinish_eq_directFinish {a : CrcParams} (h1 : 1 ≤ a.width) (h2 : a.width ≤ 64) {t d : Word}
    (h : AgreeBelow a.width (if a.refIn != a.refOut then reflect t a.width else t)
      (if a.refOut then reflect d a.width else d)) : tableFinish a t = directFinish a d :=
  (h.xor fun _ _ => rfl).and_mask h1 h2

/-- R142: the two engines compute the same function. -/
theorem tableCrc_eq_directCrc (a : CrcParams) (bytes : List Byte) (h1 : 8 ≤ a.width) (h2 : a.width ≤ 64) :
    tableCrc a (buildTable a.width a.poly a.refIn) bytes = directCrc a bytes := by
  rw [tableCrc, directCrc, tableStart]
  apply tableFinish_eq_directFinish (by omega) h2
  cases hri : a.refIn with
  | false =>
    have hfold := foldl_tableByte_agree h1 h2 hri bytes (t := a.init) fun _ _ => rfl
    rw [hri] at hfold
    cases a.refOut with
    | false => exact hfold
    | true => exact fun _ _ => congrArg (BitVec.getLsbD · _) (hfold.reflect_eq h2)
  | true =>
    have hfold := foldl_tableByte_reflect h1 h2 hri bytes a.init
    rw [hri] at hfold
    rw [if_pos rfl, hfold]
    cases a.refOut with
    | false => exact reflect_reflect_agreeBelow _ h2
    | true => exact fun _ _ => rfl

/-! ### The commands -/

/-- On a calculator that meets R39, Dispatch and, above width 7, TableCRC are DirectCRC (R181, R182). -/
theorem tableCrc_of_calcInv {c : Calculator} (h : CalcInv c) (hv : c.valid = true) (hw : 7 < c.width.toNat) :
    tableCrc c.params c.table = directCrc c.params := by
  obtain ⟨⟨-, h2⟩, -, -, htvalid, htable⟩ := h.1 hv
  rw [htable (htvalid.2 hw)]
  exact funext fun bytes => tableCrc_eq_directCrc c.params bytes hw h2

theorem dispatchCrc_of_calcInv {c : Calculator} (h : CalcInv c) (hv : c.valid = true) :
    dispatchCrc c.params c.table = directCrc c.params := by
  funext bytes
  obtain hw | hw := Nat.lt_or_ge 7 c.width.toNat
  · rw [dispatchCrc_wide c.params c.table bytes hw, tableCrc_of_calcInv h hv hw]
  · exact dispatchCrc_narrow c.params c.table bytes hw

/-- Settles O34: all three run the bit-serial engine's function. -/
theorem calculationCommandsAgree : Obligations.CalculationCommandsAgree := by
  intro s h hv
  simp only [exec, execCalcd_valid s hv]
  refine ⟨?_, fun hw => ?_⟩
  · rw [execCalc_valid s hv, dispatchCrc_of_calcInv h hv]
  · rw [execCalct_wide s hv hw, tableCrc_of_calcInv h hv hw]

end Sys2Proof.Machine
end

section
/-! The frames of CFG, LOOKUP and ENUM (spec/42_construct_table.md R130; spec/45_registry.md R160, R162). -/

namespace Sys2Proof.Machine

/-- Settles O40: the ways CFG and LOOKUP can end, case by case. -/
theorem constructionCommandsFrame : Obligations.ConstructionCommandsFrame := by
  intro i s t hi hx
  have hp := exec_performs hx
  have hfaults := performs_faults hp
  cases hp with
  | error | uninit => exact ⟨rfl, hfaults, fun _ => rfl, .inr (.inr rfl)⟩
  | cleared => exact ⟨rfl, hfaults, fun _ => rfl, .inr (.inl rfl)⟩
  | configured | found => exact ⟨rfl, hfaults, fun _ => rfl, .inl rfl⟩
  | named | reflected => simp at hi
  | crc hcrc => obtain rfl | rfl := hi <;> cases hcrc

/-- Settles O41: an index out of range writes nothing but ERR and BUSY, a name goes to ONAME's window. -/
theorem enumFrame : Obligations.EnumFrame := by
  intro k s t hx
  have houtside : ∀ a, (a < onameBase ∨ onameBase + s.cfg.nameMax ≤ a) → memRead t a = memRead s a :=
    fun _ ha => performs_read_outside_oname (exec_performs hx) ha
  obtain ⟨-, hc⟩ | ⟨v, -, hc⟩ := execEnum_cases k s <;> cases hc.symm.trans hx
  · exact ⟨rfl, houtside, fun _ => ⟨rfl, fun _ => rfl⟩⟩
  · exact ⟨rfl, houtside, fun herr => absurd rfl herr⟩

end Sys2Proof.Machine
end

section
/-! Host accesses (spec/20_memory.md R60, R62, R63, R66, R73; spec/70_reset_and_hazards.md R226, R229): which are
well-formed, what an access error does, what a read returns, and when a command's outcome counts as seen. -/

namespace Sys2Proof.Machine

open Sys2Proof.Statements (outcomeRegs)

/-! ### Which accesses are well-formed -/

/-- The window of ONAME ends below BUF's for every legal NAME_MAX (R6, R60). -/
theorem configWf_nameMax {cfg : Config} (h : configWf cfg = true) : cfg.nameMax ≤ 255 := by
  simp only [configWf, Bool.and_eq_true, decide_eq_true_eq] at h
  exact h.1.2

/-- The address map, read from the target: with legal parameters no two regions meet. -/
theorem resolve_eq_some_iff {cfg : Config} (h : configWf cfg = true) {a n : Nat} {t : Target} :
    resolve cfg a n = some t ↔ TargetOf cfg a n t := by
  refine ⟨targetOf_resolve, fun hof => ?_⟩
  have hname := configWf_nameMax h
  cases t with
  | reg r =>
    obtain ⟨rfl, rfl⟩ := hof
    exact resolve_regOffset cfg r
  | tableEntry i =>
    obtain ⟨rfl, rfl⟩ := hof
    exact resolve_tableEntry cfg i
  | nameByte i =>
    obtain ⟨rfl, rfl, hi⟩ := hof
    simp [resolve, hi]
  | onameByte i =>
    obtain ⟨rfl, rfl, hi⟩ := hof
    have hnot : ¬onameBase + i < nameBase + cfg.nameMax := by simp only [onameBase, nameBase]; omega
    simp [resolve, hi, hnot]
  | bufByte i =>
    obtain ⟨rfl, rfl, hi⟩ := hof
    have hnot : ¬bufBase + i < nameBase + cfg.nameMax ∧ ¬bufBase + i < onameBase + cfg.nameMax := by
      simp only [bufBase, onameBase, nameBase]; omega
    simp [resolve, hi, hnot]

theorem readTarget_ne_none_iff {s : State} (h : configWf s.cfg = true) {a n : Nat} :
    readTarget s a n ≠ none ↔ ∃ t, TargetOf s.cfg a n t ∧ readable s t = true := by
  simp only [Option.ne_none_iff_exists', readTarget_eq_some, resolve_eq_some_iff h]

theorem writeTarget_ne_none_iff {s : State} (h : configWf s.cfg = true) {a n : Nat} :
    writeTarget s a n ≠ none ↔ ∃ t, TargetOf s.cfg a n t ∧ writable t = true := by
  simp only [Option.ne_none_iff_exists', writeTarget_eq_some, resolve_eq_some_iff h]

/-- Settles O48: an access is well-formed exactly when it is the access of a target with that right. -/
theorem wellFormedAccesses : Obligations.WellFormedAccesses := by
  intro s a n h
  rw [readTarget_ne_none_iff h, writeTarget_ne_none_iff h]
  refine ⟨⟨?_, ?_⟩, ?_, ?_⟩
  · rintro ⟨t, hof, hr⟩
    cases t with
    | reg r =>
      obtain ⟨hn, ha⟩ := hof
      exact .inl ⟨hn, r, ha⟩
    | tableEntry i =>
      obtain ⟨hn, ha⟩ := hof
      exact .inr (.inl ⟨hn, hr, i.toNat, i.isLt, ha⟩)
    | nameByte i =>
      obtain ⟨hn, ha, hi⟩ := hof
      exact .inr (.inr ⟨hn, i, .inl ⟨hi, .inl ha⟩⟩)
    | onameByte i =>
      obtain ⟨hn, ha, hi⟩ := hof
      exact .inr (.inr ⟨hn, i, .inl ⟨hi, .inr ha⟩⟩)
    | bufByte i =>
      obtain ⟨hn, ha, hi⟩ := hof
      exact .inr (.inr ⟨hn, i, .inr ⟨hi, ha⟩⟩)
  · rintro (⟨hn, r, ha⟩ | ⟨hn, ht, i, hi, ha⟩ | ⟨hn, i, ⟨hi, ha | ha⟩ | ⟨hi, ha⟩⟩)
    · exact ⟨.reg r, ⟨hn, ha⟩, rfl⟩
    · exact ⟨.tableEntry (BitVec.ofNat 8 i), ⟨hn, by rw [BitVec.toNat_ofNat, Nat.mod_eq_of_lt hi]; exact ha⟩, ht⟩
    · exact ⟨.nameByte i, ⟨hn, ha, hi⟩, rfl⟩
    · exact ⟨.onameByte i, ⟨hn, ha, hi⟩, rfl⟩
    · exact ⟨.bufByte i, ⟨hn, ha, hi⟩, rfl⟩
  · rintro ⟨t, hof, hw⟩
    cases t with
    | reg r =>
      obtain ⟨hn, ha⟩ := hof
      exact .inl ⟨hn, r, ha, by simpa [writable] using hw⟩
    | nameByte i =>
      obtain ⟨hn, ha, hi⟩ := hof
      exact .inr ⟨hn, i, .inl ⟨hi, ha⟩⟩
    | bufByte i =>
      obtain ⟨hn, ha, hi⟩ := hof
      exact .inr ⟨hn, i, .inr ⟨hi, ha⟩⟩
    | onameByte | tableEntry => cases hw
  · rintro (⟨hn, r, ha, hr⟩ | ⟨hn, i, ⟨hi, ha⟩ | ⟨hi, ha⟩⟩)
    · exact ⟨.reg r, ⟨hn, ha⟩, by simpa [writable] using hr⟩
    · exact ⟨.nameByte i, ⟨hn, ha, hi⟩, rfl⟩
    · exact ⟨.bufByte i, ⟨hn, ha, hi⟩, rfl⟩

/-! ### Access errors -/

theorem hostWrite_error {s : State} {a n : Nat} (v : Word) (ht : writeTarget s a n = none) :
    hostWrite a n v s = accessError s := by
  rw [hostWrite, ht]

/-- Settles O49: an access error does not ask for BUSY. -/
theorem accessErrorEffect : Obligations.AccessErrorEffect := by
  intro s a n rest
  refine ⟨fun he ht => ?_, fun v he ht => ?_⟩
  · rw [step_cons s he, applyEvent, hostRead_error (s := { s with events := rest }) ht]
    rfl
  · rw [step_cons s he, applyEvent, hostWrite_error (s := { s with events := rest }) v ht]
    rfl

/-! ### What a read does -/

theorem setWidth_byte_lt (b : Byte) : (b.setWidth 64).toNat < 256 := by
  have := b.isLt
  rw [BitVec.toNat_setWidth]
  omega

theorem readStoredByte_effect (a : Nat) (s : State) :
    ∃ v d, readStoredByte a s = { s with reads := s.reads ++ [v], draws := d } ∧ v.toNat < 256 := by
  rw [readStoredByte]
  split
  · exact ⟨_, s.draws, rfl, setWidth_byte_lt _⟩
  · exact ⟨_, _, rfl, setWidth_byte_lt _⟩

/-- A read of a stored value, of the access's width. -/
theorem readStored_effect {cfg : Config} {a n : Nat} {t : Target} (h : TargetOf cfg a n t) (s : State) :
    ∃ v d, readStored t s = { s with reads := s.reads ++ [v], draws := d } ∧ (n = 1 → v.toNat < 256) := by
  cases t with
  | reg r => exact ⟨_, s.draws, rfl, fun hn => by cases hn.symm.trans h.1⟩
  | tableEntry i => exact ⟨_, s.draws, rfl, fun hn => by cases hn.symm.trans h.1⟩
  | nameByte | onameByte | bufByte =>
    obtain ⟨v, d, hs, hv⟩ := readStoredByte_effect _ s
    exact ⟨v, d, hs, fun _ => hv⟩

/-- A free read, of the access's width. -/
theorem drawAt_effect {cfg : Config} {a n : Nat} {t : Target} (h : TargetOf cfg a n t) (s : State) :
    ∃ v d, drawAt t s = { s with reads := s.reads ++ [v], draws := d } ∧ (n = 1 → v.toNat < 256) := by
  cases t with
  | reg r => exact ⟨_, _, rfl, fun hn => by cases hn.symm.trans h.1⟩
  | tableEntry i => exact ⟨_, _, rfl, fun hn => by cases hn.symm.trans h.1⟩
  | nameByte | onameByte | bufByte => exact ⟨_, _, rfl, fun _ => setWidth_byte_lt _⟩

theorem readBusy_effect {cfg : Config} {a n : Nat} {t : Target} (h : TargetOf cfg a n t) (s : State) :
    ∃ v d, readBusy t s = { s with reads := s.reads ++ [v], draws := d } ∧ (n = 1 → v.toNat < 256) := by
  rw [readBusy]
  split
  · exact readStored_effect h s
  · exact drawAt_effect h s

theorem readIdle_effect {cfg : Config} {a n : Nat} {t : Target} (h : TargetOf cfg a n t) (s : State) :
    ∃ v d e, readIdle t s = { s with reads := s.reads ++ [v], draws := d, unseen := e } ∧ (n = 1 → v.toNat < 256) ∧
      (e = s.unseen ∨ (e = false ∧ a = regOffset .status ∧ n = 8)) := by
  obtain ⟨v, d, hs, hv⟩ := readStored_effect h s
  obtain ⟨v', d', hd, hv'⟩ := drawAt_effect h s
  rw [readIdle]
  split
  · exact ⟨v', d', _, hd, hv', .inl rfl⟩
  · split
    · rename_i hstatus
      subst hstatus
      obtain ⟨hn, ha⟩ := h
      exact ⟨v, d, false, by rw [hs], hv, .inr ⟨rfl, ha, hn⟩⟩
    · exact ⟨v, d, _, hs, hv, .inl rfl⟩

/-- A well-formed read appends a value of the access's width and counts the draw if there is one; an idle one of STATUS
makes the outcome seen. -/
theorem hostRead_wellFormed_effect {s : State} {a n : Nat} (h : readTarget s a n ≠ none) :
    ∃ v d e, hostRead a n s = { s with reads := s.reads ++ [v], draws := d, unseen := e } ∧ (n = 1 → v.toNat < 256) ∧
      (e = s.unseen ∨ (e = false ∧ s.busy = false ∧ a = regOffset .status ∧ n = 8)) := by
  obtain ⟨hnone, -⟩ | ⟨t, ht, -, hread⟩ | ⟨t, ht, hb, hread⟩ := hostRead_cases a n s
  · exact absurd hnone h
  · obtain ⟨v, d, hr, hv⟩ := readBusy_effect (targetOf_resolve (readTarget_eq_some.1 ht).1) s
    exact ⟨v, d, _, hread.trans hr, hv, .inl rfl⟩
  · obtain ⟨v, d, e, hr, hv, he⟩ := readIdle_effect (targetOf_resolve (readTarget_eq_some.1 ht).1) s
    exact ⟨v, d, e, hread.trans hr, hv, he.imp_right fun ⟨he, hstatus⟩ => ⟨he, hb, hstatus⟩⟩

/-- Of all reads only an idle one of STATUS changes what the HOST has seen. -/
theorem hostRead_unseen (a n : Nat) (s : State) :
    (hostRead a n s).unseen = s.unseen ∨
      ((hostRead a n s).unseen = false ∧ s.busy = false ∧ a = regOffset .status ∧ n = 8) := by
  by_cases ht : readTarget s a n = none
  · rw [hostRead_error ht]
    exact .inl rfl
  · obtain ⟨v, d, e, hr, -, he⟩ := hostRead_wellFormed_effect ht
    rw [hr]
    exact he

/-! ### What a read returns -/

theorem hostRead_busy {s : State} {a n : Nat} {t : Target} (ht : readTarget s a n = some t) (hb : s.busy = true) :
    hostRead a n s = readBusy t s := by
  rw [hostRead, ht]
  simp [hb]

/-- A register is always readable (R62). -/
theorem readTarget_regOffset (s : State) (r : Reg) : readTarget s (regOffset r) 8 = some (.reg r) :=
  readTarget_eq_some.2 ⟨resolve_regOffset s.cfg r, rfl⟩

/-- Below NAME's window only registers are read, eight bytes at a time (R60, R62). -/
theorem width_of_readTarget_regOffset {s : State} {r : Reg} {n : Nat} (h : readTarget s (regOffset r) n ≠ none) :
    n = 8 := by
  obtain ⟨t, ht⟩ := Option.ne_none_iff_exists'.1 h
  have hof := targetOf_resolve (readTarget_eq_some.1 ht).1
  have hlt := regOffset_lt r
  cases t with
  | reg | tableEntry => exact hof.1
  | nameByte i | onameByte i | bufByte i =>
    obtain ⟨-, ha, -⟩ := hof
    simp only [nameBase, onameBase, bufBase] at ha
    omega

theorem commandOutput_reg_iff (r : Reg) : commandOutput (.reg r) = true ↔ r ∈ outcomeRegs := by cases r <;> decide

/-- An idle read of a register that is no outcome still unseen. -/
theorem hostRead_reg_idle {s : State} {r : Reg} (hb : s.busy = false) (h : s.unseen = false ∨ r ∉ outcomeRegs) :
    hostRead (regOffset r) 8 s =
      { s with reads := s.reads ++ [readReg r s], unseen := if r = .status then false else s.unseen } := by
  rw [hostRead_idle (readTarget_regOffset s r) hb]
  by_cases hr : r = .status
  · subst hr
    simp [readIdle, commandOutput, outputReg, readStored, observe]
  · have hout : r ∉ outcomeRegs → commandOutput (.reg r) = false := fun h =>
      Bool.eq_false_iff.2 (mt (commandOutput_reg_iff r).1 h)
    rw [if_neg hr, readIdle_seen _ s (h.imp_right hout) (by simpa using hr)]
    rfl

/-- STATUS and CAPS read as they are while BUSY = 1 (R229). -/
theorem hostRead_reg_busy {s : State} {r : Reg} (hb : s.busy = true) (h : r = .status ∨ r = .caps) :
    hostRead (regOffset r) 8 s = observe (readReg r s) s := by
  rw [hostRead_busy (readTarget_regOffset s r) hb]
  simp [readBusy, h, readStored]

/-- A register reads as a free value while BUSY = 1, or while it is an outcome still unseen (R73, R229). -/
theorem hostRead_reg_free {s : State} {r : Reg}
    (h : (s.busy = true ∧ r ≠ .status ∧ r ≠ .caps) ∨ (s.busy = false ∧ s.unseen = true ∧ r ∈ outcomeRegs)) :
    hostRead (regOffset r) 8 s = drawWord s := by
  have ht := readTarget_regOffset s r
  obtain ⟨hb, h1, h2⟩ | ⟨hb, hu, hout⟩ := h
  · rw [hostRead_busy ht hb]
    simp [readBusy, h1, h2, drawAt]
  · rw [hostRead_idle ht hb, readIdle_unseen _ s hu ((commandOutput_reg_iff r).2 hout)]
    rfl

/-- The HOST's program is in no register. -/
theorem readReg_events (r : Reg) (s : State) (es : List Event) : readReg r { s with events := es } = readReg r s := by
  cases r <;> rfl

/-- A byte that has a value is read as that byte. -/
theorem readStored_byte {cfg : Config} {s : State} {a : Nat} {t : Target} {b : Byte} (hof : TargetOf cfg a 1 t)
    (hb : memRead s a = some b) : readStored t s = observe (b.setWidth 64) s := by
  cases t with
  | reg | tableEntry => cases hof.1
  | nameByte | onameByte | bufByte =>
    obtain ⟨-, rfl, -⟩ := hof
    rw [readStored, readStoredByte, hb]

/-- A byte access outside ONAME's window reaches no command's outcome (R73). -/
theorem commandOutput_byte_eq_false {cfg : Config} {a : Nat} {t : Target} (hof : TargetOf cfg a 1 t)
    (ha : a < onameBase ∨ onameBase + cfg.nameMax ≤ a) : commandOutput t = false := by
  cases t with
  | reg | tableEntry => cases hof.1
  | nameByte | bufByte => rfl
  | onameByte i =>
    obtain ⟨-, ha', hi⟩ := hof
    omega

/-- An idle read of a byte that has a value and is no outcome still unseen. -/
theorem hostRead_byte {s : State} {a : Nat} {b : Byte} (ht : readTarget s a 1 ≠ none) (hbusy : s.busy = false)
    (hb : memRead s a = some b) (h : s.unseen = false ∨ a < onameBase ∨ onameBase + s.cfg.nameMax ≤ a) :
    hostRead a 1 s = observe (b.setWidth 64) s := by
  obtain ⟨t, ht⟩ := Option.ne_none_iff_exists'.1 ht
  have hof := targetOf_resolve (readTarget_eq_some.1 ht).1
  have hstatus : t ≠ .reg .status := by
    rintro rfl
    cases hof.1
  rw [hostRead_idle ht hbusy, readIdle_seen t s (h.imp_right (commandOutput_byte_eq_false hof)) hstatus,
    readStored_byte hof hb]

/-- Settles O51, from what a read of each kind of target does. -/
theorem hostReadReturns : Obligations.HostReadReturns := by
  intro s a n rest he ht
  rw [step_cons s he, applyEvent]
  refine ⟨?_, fun hb ha => ?_, ?_, ?_⟩
  · obtain ⟨v, d, e, hr, hv, hseen⟩ := hostRead_wellFormed_effect (s := { s with events := rest }) ht
    exact ⟨v, d, e, by rw [hr], hv, hseen.imp_right fun ⟨he, hb, ha, _⟩ => ⟨he, hb, ha⟩⟩
  · obtain ⟨r, hr, rfl⟩ : ∃ r, (r = .status ∨ r = .caps) ∧ a = regOffset r :=
      ha.elim (fun h => ⟨_, .inl rfl, h⟩) fun h => ⟨_, .inr rfl, h⟩
    obtain rfl := width_of_readTarget_regOffset ht
    exact ⟨r, rfl, by rw [hostRead_reg_busy (s := { s with events := rest }) hb hr, readReg_events]; rfl⟩
  · rintro r rfl rfl
    refine ⟨fun hb hseen => ?_, fun hfree => ?_⟩
    · rw [hostRead_reg_idle (s := { s with events := rest }) hb hseen, readReg_events]
    · rw [hostRead_reg_free (s := { s with events := rest }) hfree]
      rfl
  · rintro hb b rfl hbyte hseen
    rw [hostRead_byte (s := { s with events := rest }) ht hb hbyte hseen]
    rfl

/-! ### What the HOST has seen -/

/-- No command changes what the HOST has seen. -/
theorem performs_unseen {i : Instr} {s t : State} (hp : Performs s i t) : t.unseen = s.unseen := by
  cases hp <;> rfl

/-- What a step can do to the flag: leave it, clear it by a reset or an idle read of STATUS, set it by issuing a command. -/
theorem step_unseen {s t : State} (h : step s = .next t) :
    t.unseen = s.unseen ∨
    (t.unseen = false ∧ ((∃ rest, s.events = .reset :: rest) ∨
      (s.busy = false ∧ ∃ rest, s.events = .read (regOffset .status) 8 :: rest))) ∨
    (t.unseen = true ∧ s.busy = false ∧
      ∃ v rest, s.events = .write (regOffset .cmd) 8 v :: rest ∧ t.cmd = v ∧ t.busy = true) := by
  cases step_stepsTo h with
  | reset he => exact .inr (.inl ⟨rfl, .inl ⟨_, he⟩⟩)
  | command turn hb hd hp => exact .inl (performs_unseen hp :)
  | @read a n rest he v d e hu =>
    have hread := Host.Outcome.next.inj ((step_cons s he).symm.trans h)
    obtain hsame | ⟨hfalse, hb, rfl, rfl⟩ := hostRead_unseen a n { s with events := rest } <;> rw [hread] at *
    · exact .inl hsame
    · exact .inr (.inl ⟨hfalse, .inr ⟨hb, rest, he⟩⟩)
  | @writeReg r v rest he hb hr =>
    cases r with
    | cmd => exact .inr (.inr ⟨rfl, hb, v, rest, he, rfl, rfl⟩)
    | _ => exact .inl rfl
  | stutter | illegal | accessError | hazard | writeByte => exact .inl rfl

/-- Settles O52: the flag changes in a step only as `step_unseen` says, and each way of changing it has one direction. -/
theorem outcomeIsSeenThroughStatus : Obligations.OutcomeIsSeenThroughStatus := by
  intro s t h
  obtain hsame | ⟨hfalse, hseen⟩ | ⟨htrue, hissue⟩ := step_unseen h
  · exact ⟨fun hs ht => by simp [hsame, hs] at ht, fun hs ht => by simp [hsame, hs] at ht⟩
  · exact ⟨fun _ _ => hseen, fun _ ht => by simp [hfalse] at ht⟩
  · exact ⟨fun _ ht => by simp [htrue] at ht, fun _ _ => hissue⟩

end Sys2Proof.Machine
end

section
/-! Command words (spec/30_encoding.md R90-R94, R96): the four fields, which words are of which command, and the laws of
the decoder, the encoder and the opcode map that follow. -/

namespace Sys2Proof

/-! ### The fields of a word -/

theorem opcField_toNat (v : Word) : (opcField v).toNat = v.toNat % 256 := by simp [opcField]

theorem idxField_toNat (v : Word) : (idxField v).toNat = v.toNat / 256 % 256 := by
  simp [idxField, Nat.shiftRight_eq_div_pow]

theorem wField_toNat (v : Word) : (wField v).toNat = v.toNat / 65536 % 128 := by
  simp [wField, Nat.shiftRight_eq_div_pow]

theorem rsvField_toNat (v : Word) : (rsvField v).toNat = v.toNat / 8388608 := by
  rw [rsvField, BitVec.extractLsb'_toNat, Nat.shiftRight_eq_div_pow]
  omega

/-- R90: the four fields are the whole word. -/
theorem word_ext_fields {v w : Word} (hopc : opcField v = opcField w) (hidx : idxField v = idxField w)
    (hw : wField v = wField w) (hrsv : rsvField v = rsvField w) : v = w := by
  rw [← BitVec.toNat_inj] at *
  rw [opcField_toNat, opcField_toNat] at hopc
  rw [idxField_toNat, idxField_toNat] at hidx
  rw [wField_toNat, wField_toNat] at hw
  rw [rsvField_toNat, rsvField_toNat] at hrsv
  omega

/-! ### The words of a command -/

/-- What IDX holds in a word of the command (R91): ENUM's index, else 0. -/
def idxOperand : Instr → Nat
  | .enum idx => idx
  | _ => 0

/-- What W holds in a word of the command (R91): REFLECT's width, else 0. -/
def wOperand : Instr → Nat
  | .reflect w => w
  | _ => 0

/-- The fields of `v` are those of a word of the command `i` (R90, R91). -/
structure IsWordOf (v : Word) (i : Instr) : Prop where
  opc : opcField v = opcode i
  idx : (idxField v).toNat = idxOperand i
  w : (wField v).toNat = wOperand i
  rsv : rsvField v = 0

/-- No command has two words. -/
theorem IsWordOf.unique {v w : Word} {i : Instr} (hv : IsWordOf v i) (hw : IsWordOf w i) : v = w :=
  word_ext_fields (hv.opc.trans hw.opc.symm) (BitVec.eq_of_toNat_eq (hv.idx.trans hw.idx.symm))
    (BitVec.eq_of_toNat_eq (hv.w.trans hw.w.symm)) (hv.rsv.trans hw.rsv.symm)

/-- R96: a command has an encoding when each operand fits its field. -/
theorem wf_iff_operands_fit (i : Instr) : i.wf = true ↔ idxOperand i ≤ 255 ∧ wOperand i ≤ 127 := by
  cases i <;> simp [Instr.wf, idxOperand, wOperand]

theorem IsWordOf.wf {v : Word} {i : Instr} (h : IsWordOf v i) : i.wf = true := by
  rw [wf_iff_operands_fit, ← h.idx, ← h.w]
  omega

/-! ### The encoder -/

/-- The opcode and a shifted operand share no bit, so the word is their sum. -/
theorem opcode_or_shifted_toNat (opc : BitVec 8) {k s : Nat} (hs : 8 ≤ s) (hk : k * 2 ^ s < 2 ^ 64) :
    (opc.setWidth 64 ||| BitVec.ofNat 64 k <<< s).toNat = opc.toNat + k * 2 ^ s := by
  have hshift : (BitVec.ofNat 64 k <<< s).toNat = k <<< s := by
    rw [BitVec.toNat_shiftLeft, BitVec.toNat_ofNat, Nat.shiftLeft_eq, Nat.shiftLeft_eq, Nat.mod_mul_mod,
      Nat.mod_eq_of_lt hk]
  have hopc : opc.toNat < 2 ^ s := opc.isLt.trans_le (Nat.pow_le_pow_right (by omega) hs)
  rw [BitVec.toNat_or, BitVec.toNat_setWidth_of_le (by omega), hshift, Nat.or_comm,
    ← Nat.shiftLeft_add_eq_or_of_lt hopc, Nat.shiftLeft_eq, Nat.add_comm]

/-- The word of a command as a number (R90, R96). -/
theorem encode_toNat {i : Instr} (h : i.wf = true) :
    (encode i).toNat = (opcode i).toNat + idxOperand i * 2 ^ 8 + wOperand i * 2 ^ 16 := by
  obtain ⟨hidx, hw⟩ := (wf_iff_operands_fit i).mp h
  cases i with
  | enum k =>
    have hk : k ≤ 255 := hidx
    rw [encode, opcode_or_shifted_toNat _ (by omega) (by omega)]
    simp [idxOperand, wOperand]
  | reflect k =>
    have hk : k ≤ 127 := hw
    rw [encode, opcode_or_shifted_toNat _ (by omega) (by omega)]
    simp [idxOperand, wOperand]
  | _ => rfl

/-- The encoder puts every operand into its field, and nothing else. -/
theorem encode_isWordOf {i : Instr} (h : i.wf = true) : IsWordOf (encode i) i := by
  obtain ⟨hidx, hw⟩ := (wf_iff_operands_fit i).mp h
  have hopc : (opcode i).toNat < 256 := (opcode i).isLt
  constructor
  case opc => rw [← BitVec.toNat_inj, opcField_toNat, encode_toNat h]; omega
  case idx => rw [idxField_toNat, encode_toNat h]; omega
  case w => rw [wField_toNat, encode_toNat h]; omega
  case rsv =>
    apply BitVec.eq_of_toNat_eq
    rw [rsvField_toNat, encode_toNat h]
    exact Nat.div_eq_of_lt (by omega)

/-! ### The decoder -/

theorem onlyIf_eq_command {b : Bool} {i j : Instr} : onlyIf b i = .command j ↔ b = true ∧ i = j := by
  cases b <;> simp [onlyIf]

/-- The decoder takes every word of a command. -/
theorem decode_of_isWordOf {v : Word} {i : Instr} (h : IsWordOf v i) : decode v = .command i := by
  obtain ⟨hopc, hidx, hw, hrsv⟩ := h
  rw [decode, if_neg (not_not.mpr hrsv), hopc]
  cases i <;> simp_all [opcode, idxOperand, wOperand, onlyIf, ← BitVec.toNat_inj]

/-- The decoder answers a command only on a word of it. -/
theorem isWordOf_of_decode {v : Word} {i : Instr} (h : decode v = .command i) : IsWordOf v i := by
  unfold decode at h
  split_ifs at h with hrsv hopc hopc hopc hopc hopc hopc hopc hopc
  all_goals
    obtain ⟨hunused, rfl⟩ := onlyIf_eq_command.mp h
    simp only [Bool.and_eq_true, beq_iff_eq] at hunused
    exact ⟨hopc, by simp [idxOperand, hunused], by simp [wOperand, hunused], not_not.mp hrsv⟩

theorem decode_eq_command_iff {v : Word} {i : Instr} : decode v = .command i ↔ IsWordOf v i :=
  ⟨isWordOf_of_decode, decode_of_isWordOf⟩

/-- Settles O10: the encoder's word has the command's fields, and the decoder reads the fields. -/
theorem decodeInvertsEncode : Obligations.DecodeInvertsEncode := fun _ h => decode_of_isWordOf (encode_isWordOf h)

/-- Settles O11: the fields are the whole word, so no second word has those of `i`. -/
theorem encodeInvertsDecode : Obligations.EncodeInvertsDecode := by
  intro v i h
  have hv : IsWordOf v i := isWordOf_of_decode h
  exact ⟨hv.wf, (encode_isWordOf hv.wf).unique hv⟩

/-! ### The opcode map -/

/-- A word decodes as a command exactly when it is its encoding. -/
theorem decode_eq_command_iff_encode {v : Word} {i : Instr} (hwf : i.wf = true) :
    decode v = .command i ↔ v = encode i :=
  ⟨fun h => (isWordOf_of_decode h).unique (encode_isWordOf hwf), fun h => h ▸ decode_of_isWordOf (encode_isWordOf hwf)⟩

/-- The commands without an encoded operand: each has one word. -/
def bareCommands : List Instr := [.cfg, .lookup, .calculate, .calct, .calcd, .check]

theorem bareCommands_wf {i : Instr} (hi : i ∈ bareCommands) : i.wf = true := by
  cases i with
  | enum | reflect => simp [bareCommands] at hi
  | _ => rfl

theorem eq_of_mnemonic_eq {i : Instr} (hi : i ∈ bareCommands) (j : Instr) : mnemonic j = mnemonic i → j = i := by
  cases i with
  | enum | reflect => simp [bareCommands] at hi
  | _ => cases j <;> simp [mnemonic]

/-- The row of a command without an operand: its mask is full, so it is hit by the command's one word. -/
theorem hit_bare_iff {i : Instr} (hi : i ∈ bareCommands) (v : Word) :
    OpcodeRow.hit ⟨mnemonic i, encode i, BitVec.allOnes 64⟩ v = true ↔
      ∃ j, decode v = .command j ∧ mnemonic j = mnemonic i := by
  have hhit : OpcodeRow.hit ⟨mnemonic i, encode i, BitVec.allOnes 64⟩ v = true ↔ v = encode i := by
    rw [OpcodeRow.hit, BitVec.and_allOnes, beq_iff_eq]
  rw [hhit, ← decode_eq_command_iff_encode (bareCommands_wf hi)]
  constructor
  · exact fun h => ⟨i, h, rfl⟩
  · rintro ⟨j, hj, hm⟩
    exact eq_of_mnemonic_eq hi j hm ▸ hj

/-- A row is hit when each field of the word, masked, is the field of the pattern. -/
theorem hit_iff_fields (r : OpcodeRow) (v : Word) : r.hit v = true ↔
    opcField v &&& opcField r.mask = opcField r.pattern ∧ idxField v &&& idxField r.mask = idxField r.pattern ∧
      wField v &&& wField r.mask = wField r.pattern ∧ rsvField v &&& rsvField r.mask = rsvField r.pattern := by
  have hopc : opcField (v &&& r.mask) = opcField v &&& opcField r.mask := BitVec.extractLsb'_and
  have hidx : idxField (v &&& r.mask) = idxField v &&& idxField r.mask := BitVec.extractLsb'_and
  have hw : wField (v &&& r.mask) = wField v &&& wField r.mask := BitVec.extractLsb'_and
  have hrsv : rsvField (v &&& r.mask) = rsvField v &&& rsvField r.mask := BitVec.extractLsb'_and
  rw [OpcodeRow.hit, beq_iff_eq, ← hopc, ← hidx, ← hw, ← hrsv]
  constructor
  · intro h
    rw [h]
    exact ⟨rfl, rfl, rfl, rfl⟩
  · rintro ⟨h1, h2, h3, h4⟩
    exact word_ext_fields h1 h2 h3 h4

/-- ENUM's row leaves IDX open. -/
theorem hit_enum_iff (v : Word) : OpcodeRow.hit ⟨"ENUM", 0x3, 0xFFFFFFFFFFFF00FF⟩ v = true ↔
    ∃ j, decode v = .command j ∧ mnemonic j = "ENUM" := by
  have hfields : OpcodeRow.hit ⟨"ENUM", 0x3, 0xFFFFFFFFFFFF00FF⟩ v = true ↔
      opcField v = 3 ∧ wField v = 0 ∧ rsvField v = 0 := by
    have hopc : opcField v &&& opcField 0xFFFFFFFFFFFF00FF = opcField v := BitVec.and_allOnes
    have hidx : idxField v &&& idxField 0xFFFFFFFFFFFF00FF = 0 := BitVec.and_zero
    have hw : wField v &&& wField 0xFFFFFFFFFFFF00FF = wField v := BitVec.and_allOnes
    have hrsv : rsvField v &&& rsvField 0xFFFFFFFFFFFF00FF = rsvField v := BitVec.and_allOnes
    rw [hit_iff_fields, hopc, hidx, hw, hrsv]
    exact ⟨fun ⟨h1, _, h3, h4⟩ => ⟨h1, h3, h4⟩, fun ⟨h1, h3, h4⟩ => ⟨h1, rfl, h3, h4⟩⟩
  rw [hfields]
  constructor
  · rintro ⟨hopc, hw, hrsv⟩
    exact ⟨.enum (idxField v).toNat, decode_of_isWordOf ⟨hopc, rfl, by rw [hw]; rfl, hrsv⟩, rfl⟩
  · rintro ⟨j, hj, hm⟩
    obtain ⟨hopc, -, hw, hrsv⟩ := isWordOf_of_decode hj
    cases j with
    | enum k => exact ⟨hopc, BitVec.eq_of_toNat_eq hw, hrsv⟩
    | _ => simp [mnemonic] at hm

/-- REFLECT's row leaves W open. -/
theorem hit_reflect_iff (v : Word) : OpcodeRow.hit ⟨"REFLECT", 0x20, 0xFFFFFFFFFF80FFFF⟩ v = true ↔
    ∃ j, decode v = .command j ∧ mnemonic j = "REFLECT" := by
  have hfields : OpcodeRow.hit ⟨"REFLECT", 0x20, 0xFFFFFFFFFF80FFFF⟩ v = true ↔
      opcField v = 0x20 ∧ idxField v = 0 ∧ rsvField v = 0 := by
    have hopc : opcField v &&& opcField 0xFFFFFFFFFF80FFFF = opcField v := BitVec.and_allOnes
    have hidx : idxField v &&& idxField 0xFFFFFFFFFF80FFFF = idxField v := BitVec.and_allOnes
    have hw : wField v &&& wField 0xFFFFFFFFFF80FFFF = 0 := BitVec.and_zero
    have hrsv : rsvField v &&& rsvField 0xFFFFFFFFFF80FFFF = rsvField v := BitVec.and_allOnes
    rw [hit_iff_fields, hopc, hidx, hw, hrsv]
    exact ⟨fun ⟨h1, h2, _, h4⟩ => ⟨h1, h2, h4⟩, fun ⟨h1, h2, h4⟩ => ⟨h1, h2, rfl, h4⟩⟩
  rw [hfields]
  constructor
  · rintro ⟨hopc, hidx, hrsv⟩
    exact ⟨.reflect (wField v).toNat, decode_of_isWordOf ⟨hopc, by rw [hidx]; rfl, rfl, hrsv⟩, rfl⟩
  · rintro ⟨j, hj, hm⟩
    obtain ⟨hopc, hidx, -, hrsv⟩ := isWordOf_of_decode hj
    cases j with
    | reflect w => exact ⟨hopc, BitVec.eq_of_toNat_eq hidx, hrsv⟩
    | _ => simp [mnemonic] at hm

/-- R92: a word hits a row exactly when it decodes to a command with the row's mnemonic. -/
theorem hit_iff_decodes {v : Word} {r : OpcodeRow} (hr : r ∈ opcodeRows) :
    r.hit v = true ↔ ∃ i, decode v = .command i ∧ mnemonic i = r.mnemonic := by
  simp only [opcodeRows, List.mem_cons, List.not_mem_nil, or_false] at hr
  obtain rfl | rfl | rfl | rfl | rfl | rfl | rfl | rfl := hr
  · exact hit_bare_iff (i := .cfg) (by decide) v
  · exact hit_bare_iff (i := .lookup) (by decide) v
  · exact hit_enum_iff v
  · exact hit_bare_iff (i := .calculate) (by decide) v
  · exact hit_bare_iff (i := .calct) (by decide) v
  · exact hit_bare_iff (i := .calcd) (by decide) v
  · exact hit_reflect_iff v
  · exact hit_bare_iff (i := .check) (by decide) v

theorem eq_of_row_mnemonic_eq : ∀ r ∈ opcodeRows, ∀ r' ∈ opcodeRows, r.mnemonic = r'.mnemonic → r = r' := by decide

/-- Settles O12: a row is hit by the words of its command, and a word is of one command only. -/
theorem opcodeMapDecides : Obligations.OpcodeMapDecides := by
  refine ⟨fun v r hr => hit_iff_decodes hr, fun v r r' hr hr' h h' => ?_⟩
  obtain ⟨i, hi, hm⟩ := (hit_iff_decodes hr).mp h
  obtain ⟨j, hj, hm'⟩ := (hit_iff_decodes hr').mp h'
  obtain rfl : i = j := Decoded.command.inj (hi.symm.trans hj)
  exact eq_of_row_mnemonic_eq r hr r' hr' (hm.symm.trans hm')

/-! ### Illegal words -/

theorem rsvField_eq_zero_iff (v : Word) : rsvField v = 0 ↔ v >>> 23 = 0 := by
  rw [← BitVec.toNat_inj, ← BitVec.toNat_inj, rsvField_toNat, BitVec.toNat_ushiftRight, Nat.shiftRight_eq_div_pow]
  rfl

/-- Which words are of some command: the negation of R94's three ways. -/
theorem exists_isWordOf_iff (v : Word) : (∃ i, IsWordOf v i) ↔
    rsvField v = 0 ∧ (opcField v).toNat ∈ [0x01, 0x02, 0x03, 0x10, 0x11, 0x12, 0x20, 0x30] ∧
      ((opcField v).toNat ≠ 0x03 → (idxField v).toNat = 0) ∧ ((opcField v).toNat ≠ 0x20 → (wField v).toNat = 0) := by
  constructor
  · rintro ⟨i, hopc, hidx, hw, hrsv⟩
    rw [hopc, hidx, hw]
    cases i <;> simp [opcode, idxOperand, wOperand, hrsv]
  · rintro ⟨hrsv, hopc, hidx, hw⟩
    have hword : ∀ i, (opcField v).toNat = (opcode i).toNat → (idxField v).toNat = idxOperand i →
        (wField v).toNat = wOperand i → ∃ i, IsWordOf v i :=
      fun i hi hk hn => ⟨i, BitVec.eq_of_toNat_eq hi, hk, hn, hrsv⟩
    simp only [List.mem_cons, List.not_mem_nil, or_false] at hopc
    obtain h | h | h | h | h | h | h | h := hopc
    · exact hword .cfg h (hidx (by omega)) (hw (by omega))
    · exact hword .lookup h (hidx (by omega)) (hw (by omega))
    · exact hword (.enum (idxField v).toNat) h rfl (hw (by omega))
    · exact hword .calculate h (hidx (by omega)) (hw (by omega))
    · exact hword .calct h (hidx (by omega)) (hw (by omega))
    · exact hword .calcd h (hidx (by omega)) (hw (by omega))
    · exact hword (.reflect (wField v).toNat) h (hidx (by omega)) rfl
    · exact hword .check h (hidx (by omega)) (hw (by omega))

theorem decode_illegal_iff (v : Word) : (∃ why, decode v = .illegal why) ↔ ¬∃ i, IsWordOf v i := by
  simp only [← decode_eq_command_iff]
  cases decode v <;> simp

end Sys2Proof

namespace Sys2Proof.Machine

open Sys2Proof.Statements (EngineTurn)

/-- The ENGINE's turn is its event, also when it comes because no event is left. -/
theorem step_engineTurn {s : State} {rest : List Event} (turn : EngineTurn s rest) :
    step s = applyEvent .engine { s with events := rest } := by
  obtain ⟨he, rfl⟩ | he := turn
  · rw [step_nil s he, ← he]
    rfl
  · exact step_cons s he

/-- Settles O13: illegal is what is no command's word, and the ENGINE completes it with the code alone. -/
theorem illegalWordCompletesWithError : Obligations.IllegalWordCompletesWithError := by
  refine ⟨fun v => ?_, fun s rest why turn hb hd => ?_⟩
  · rw [decode_illegal_iff, exists_isWordOf_iff, rsvField_eq_zero_iff, opcField_toNat, idxField_toNat, wField_toNat]
    tauto
  · rw [step_engineTurn turn, applyEvent, if_pos hb]
    exact engineStep_illegal hd

/-- Settles O14: the decoder runs on each word. -/
theorem exampleWordsDecode : Obligations.ExampleWordsDecode := by
  unfold Obligations.ExampleWordsDecode
  decide

end Sys2Proof.Machine
end

section
/-! REFLECT (spec/40_reflect.md): the laws of Reflect that R112 lists, and the command of R111. -/

namespace Sys2Proof.Machine

/-! ### The laws of Reflect (R112) -/

theorem reflect_getLsbD_of_lt (v : Word) {w k : Nat} (h2 : w ≤ 64) (hk : k < w) :
    (reflect v w).getLsbD k = v.getLsbD (w - 1 - k) := by
  rw [reflect_getLsbD v w k h2, decide_eq_true hk, Bool.true_and]

theorem reflect_getLsbD_of_ge (v : Word) {w k : Nat} (h2 : w ≤ 64) (hk : w ≤ k) : (reflect v w).getLsbD k = false := by
  rw [reflect_getLsbD v w k h2, decide_eq_false (by omega), Bool.false_and]

theorem reflect_reflect (v : Word) {w : Nat} (h1 : 1 ≤ w) (h2 : w ≤ 64) : reflect (reflect v w) w = v &&& mask w :=
  calc reflect (reflect v w) w
    _ = reflect (reflect v w) w &&& mask w := (reflect_and_mask _ h1 h2).symm
    _ = v &&& mask w := (reflect_reflect_agreeBelow v h2).and_mask h1 h2

theorem reflect_of_and_mask (v : Word) {w : Nat} (h1 : 1 ≤ w) (h2 : w ≤ 64) : reflect (v &&& mask w) w = reflect v w :=
  (agreeBelow_and_mask v h1 h2).reflect_eq h2

/-- A right shift of a w-bit value, reflected: write the value as a reflection and move the shift out of the inner
Reflect, then the two outer ones cancel. -/
theorem reflect_ushiftRight {v : Word} {w : Nat} (h1 : 1 ≤ w) (h2 : w ≤ 64) (hv : v.toNat < 2 ^ w) (n : Nat) :
    reflect (v >>> n) w = (reflect v w <<< n) &&& mask w := by
  have hself : reflect (reflect v w) w = v := (reflect_reflect v h1 h2).trans (and_mask_eq_self v w h1 h2 hv)
  calc reflect (v >>> n) w
    _ = reflect (reflect (reflect v w) w >>> n) w := by rw [hself]
    _ = reflect (reflect (reflect v w <<< n) w) w := by rw [reflect_shiftLeft _ h2]
    _ = (reflect v w <<< n) &&& mask w := reflect_reflect _ h1 h2

/-- Settles O16: each law is a lemma about Reflect's bits; the byte law is the first one at w = 8. -/
theorem reflectLaws : Obligations.ReflectLaws := fun x y w h1 h2 =>
  ⟨reflect_reflect x h1 h2, (reflect_of_and_mask x h1 h2).symm, reflect_xor x y h2,
    fun _ hx => reflect_ushiftRight h1 h2 hx 8,
    fun hx => (reflect_reflect x (by decide) (by decide)).trans (and_mask_eq_self x 8 (by decide) (by decide) hx)⟩

/-! ### The command (R111) -/

/-- Settles O15: what REFLECT can do, with the bits of Reflect. -/
theorem reflectCommand : Obligations.ReflectCommand := by
  intro s w
  obtain ⟨hout, hexec⟩ | ⟨hin, hexec⟩ := execReflect_cases w s
  · exact ⟨fun h1 h2 => by omega, fun _ => hexec⟩
  · exact ⟨fun _ h2 => ⟨reflect s.opa w, hexec, fun _ => reflect_getLsbD_of_lt _ h2, fun _ => reflect_getLsbD_of_ge _ h2⟩,
      fun hout => absurd hin hout⟩

end Sys2Proof.Machine
end

section
/-! The catalogue (spec/41_catalog.md): it is immutable (R127), LOOKUP then CHECK of a known-answer valid record (R122), and
the default CATALOG (R123, R126). -/

namespace Sys2Proof.Machine

open Sys2Proof.Statements (Answers HoldsBytes)

/-! ### Immutability (R127) -/

theorem performs_cfg {i : Instr} {s t : State} (hp : Performs s i t) : t.cfg = s.cfg := by cases hp <;> rfl

/-- Settles O44, by what one step can do. -/
theorem configurationIsImmutable : Obligations.ConfigurationIsImmutable := by
  intro s t h
  cases step_stepsTo h with
  | command turn hb hd hp => exact (performs_cfg hp :)
  | @writeReg r v rest he hb hr => rw [writeReg_frame]
  | reset | stutter | illegal | accessError | read | hazard | writeByte => rfl

/-! ### LOOKUP of a record by one of its names -/

/-- In a well-formed catalogue the search finds the record that answers: no earlier one has an equal alias (R121(e)). -/
theorem findVariant_of_answers {cfg : Config} (hcat : catalogWf cfg = true) {k : Nat} {v : Variant} {q : Name}
    (hv : cfg.catalog[k]? = some v) (hq : Answers v q) : findVariant q 0 cfg.catalog = some (k, v) := by
  obtain ⟨a, ha, haq⟩ := hq
  refine (findVariant_eq_some q 0 _ k v).2
    ⟨k, (Nat.zero_add k).symm, hv, List.any_eq_true.2 ⟨a, ha, haq⟩, fun j hj u hu => ?_⟩
  refine Bool.eq_false_iff.2 fun hany => hj.ne ?_
  obtain ⟨b, hb, hbq⟩ := List.any_eq_true.1 hany
  exact catalogWf_unique hcat hu hv hb ha (nameEq_trans hbq (nameEq_symm haq))

/-- LOOKUP with one of a record's names in NAME constructs that record's calculator (R160). -/
theorem execLookup_of_answers {s : State} (hcat : catalogWf s.cfg = true) {k : Nat} {v : Variant} {q : Name}
    (hv : s.cfg.catalog[k]? = some v) (hq : Answers v q) (hlen : q.length = s.nameLen.toNat)
    (hbytes : HoldsBytes s nameBase q) :
    execLookup s = .next (complete .ok (construct v.width v.poly v.init v.xorOut v.refIn v.refOut v.checkValue
      (BitVec.ofNat 8 k) s)) := by
  have hfits : nameOutOfRange s = false := by
    obtain ⟨a, ha, haq⟩ := hq
    obtain ⟨-, -, hnames⟩ := catalogWf_variant hcat (List.mem_of_getElem? hv)
    obtain ⟨-, hmax⟩ := hnames a ha
    rw [nameEq_length haq, hlen] at hmax
    exact decide_eq_false (Nat.not_lt.2 hmax)
  have hquery : queryBytes s = some q := (queryBytes_eq_some s q).2 ⟨hlen, fun i hi => hbytes i (hlen ▸ hi)⟩
  simp [execLookup, hfits, hquery, findVariant_of_answers hcat hv hq]

/-! ### Known answers (R122) -/

/-- Dispatch with the table of its own parameters is the bit-serial engine, at every legal width (R142, R181). -/
theorem dispatchCrc_buildTable (a : CrcParams) (bytes : List Byte) (h2 : a.width ≤ 64) :
    dispatchCrc a (buildTable a.width a.poly a.refIn) bytes = directCrc a bytes := by
  obtain hw | hw := Nat.lt_or_ge 7 a.width
  · rw [dispatchCrc_wide a _ bytes hw, tableCrc_eq_directCrc a bytes hw h2]
  · exact dispatchCrc_narrow a _ bytes hw

theorem variantKatValid_iff_directCrc {v : Variant} (h2 : v.width ≤ 64) :
    variantKatValid v = true ↔ directCrc (variantParams v) kat = v.checkValue := by
  rw [variantKatValid, beq_iff_eq]
  exact Eq.congr_left (dispatchCrc_buildTable (variantParams v) kat h2)

/-- The calculator of a known-answer valid record gives the record's check value, which is in A_CHECK. -/
theorem construct_wf_variant_kat {cfg : Config} (hcat : catalogWf cfg = true) {v : Variant} (hv : v ∈ cfg.catalog)
    (hkat : variantKatValid v = true) (k : BitVec 8) (s : State) :
    let c := (construct v.width v.poly v.init v.xorOut v.refIn v.refOut v.checkValue k s).act
    dispatchCrc c.params c.table kat = v.checkValue ∧ c.check = v.checkValue := by
  intro c
  obtain ⟨⟨h1, h2⟩, -, -⟩ := catalogWf_variant hcat hv
  obtain ⟨hparams, hcheck⟩ := construct_wf_variant hcat hv k s
  refine ⟨?_, hcheck⟩
  calc dispatchCrc c.params c.table kat
    _ = directCrc c.params kat := by rw [dispatchCrc_of_calcInv (construct_calcInv _ _ _ _ _ _ _ _ _ h1 h2) rfl]
    _ = directCrc (variantParams v) kat := by rw [hparams]
    _ = v.checkValue := (variantKatValid_iff_directCrc h2).1 hkat

/-- Settles O38: LOOKUP constructs the record's calculator, whose known answer is its A_CHECK. -/
theorem lookupThenCheckPasses : Obligations.LookupThenCheckPasses := by
  intro s k v q hcat hv hq hkat hlen hbytes
  obtain ⟨hr, hcheck⟩ := construct_wf_variant_kat hcat (List.mem_of_getElem? hv) hkat (BitVec.ofNat 8 k) s
  refine ⟨_, _, execLookup_of_answers hcat hv hq hlen hbytes, execCheck_valid _ rfl, ?_, hr⟩
  exact if_pos (hr.trans hcheck.symm)

/-! ### The default CATALOG (R123, R126) -/

theorem defaultCatalog_length : defaultCatalog.length = 67 := by decide

theorem defaultConfig_catalogWf : catalogWf defaultConfig = true := by decide +kernel

/-- The known answers by the bit-serial engine, which builds no table. -/
theorem defaultCatalog_directCrc : ∀ v ∈ defaultCatalog, directCrc (variantParams v) kat = v.checkValue := by
  decide +kernel

/-- Settles O24: the parameters are small numbers, and each record's known answer is the bit-serial engine's. -/
theorem defaultCatalogIsValid : Obligations.DefaultCatalogIsValid := by
  refine ⟨?_, defaultCatalog_length, by decide, fun v hv => ?_⟩
  · rw [configWf, defaultConfig_catalogWf]
    decide
  · obtain ⟨⟨-, h2⟩, -, -⟩ := catalogWf_variant defaultConfig_catalogWf hv
    exact (variantKatValid_iff_directCrc h2).2 (defaultCatalog_directCrc v hv)

/-- Settles O25: CRC-32 is record 57, CRC-16/ARC record 30, CRC-8 record 11 and the narrow CRC-3/ROHC record 0. -/
theorem defaultCatalogHasPinnedVariants : Obligations.DefaultCatalogHasPinnedVariants := by
  refine ⟨⟨_, List.getElem_mem (n := 57) (by decide), by decide, by decide, rfl⟩,
    ⟨_, List.getElem_mem (n := 30) (by decide), by decide, rfl⟩,
    ⟨_, List.getElem_mem (n := 11) (by decide), by decide, rfl⟩, ?widths,
    ⟨_, List.getElem_mem (n := 0) (by decide), by decide⟩, ⟨_, List.getElem_mem (n := 11) (by decide), by decide⟩,
    ?names, by decide⟩
  case widths => decide
  case names => decide +kernel

end Sys2Proof.Machine
end

section
/-! Construct and the table (spec/42_construct_table.md): CFG (R130, R132), and the properties of BuildTable that R134 lists.
A plain entry is eight rounds on its index at the top of the register, masked; a reflected entry is the reflection of a plain
one. So each law of R134 is one about the rounds, carried over to both tables. -/

namespace Sys2Proof.Machine

open Sys2Proof.Statements (ConstructedFrom)

/-! ### CFG (R130) -/

/-- Construct, said in numbers (R132). -/
theorem construct_constructedFrom (w : Nat) (poly init xo : Word) (ri ro : Bool) (chk : Word) (idx : BitVec 8) (s : State)
    (h1 : 1 ≤ w) (h2 : w ≤ 64) :
    ConstructedFrom (construct w poly init xo ri ro chk idx s).act s.act w poly init xo ri ro chk idx := by
  have hmod (v : Word) : (v &&& mask w).toNat = v.toNat % 2 ^ w := and_mask_toNat v w h1 h2
  refine ⟨Nat.mod_eq_of_lt (by omega), mask_toNat w h1 h2, highBit_toNat w h1 h2, hmod poly, hmod init, hmod xo, hmod chk,
    rfl, rfl, rfl, rfl, fun hwide => ⟨decide_eq_true hwide, fun i => ?_⟩, fun hnarrow => ?_⟩
  · rw [construct_act_table, if_pos hwide, tableAt_buildTable, construct_act_poly]
  · have hnot : ¬w > tableThreshold := Nat.not_lt.2 hnarrow
    exact ⟨decide_eq_false hnot, if_neg hnot⟩

/-- Settles O17: the two ways CFG can end. -/
theorem cfgCommand : Obligations.CfgCommand := by
  intro s
  obtain ⟨hout, hexec⟩ | ⟨hin, hexec⟩ := execCfg_cases s
  · exact ⟨fun h1 h2 => by omega, fun _ => hexec⟩
  · exact ⟨fun h1 h2 => ⟨_, hexec, construct_constructedFrom _ _ _ _ _ _ _ _ s h1 h2⟩, fun hout => absurd hin hout⟩

/-! ### Entries from rounds (R131) -/

theorem tableEntry_false (w : Nat) (poly : Word) (i : Byte) :
    tableEntry w poly false i = tableRounds w poly 8 (topByte w i) &&& mask w := rfl

/-- R134 (f): the reflected table is the plain one at the reflected index, reflected. -/
theorem tableEntry_true {w : Nat} (poly : Word) (i : Byte) (h1 : 1 ≤ w) (h2 : w ≤ 64) :
    tableEntry w poly true i = reflect (tableEntry w poly false (reflectByte i)) w :=
  calc tableEntry w poly true i
    _ = reflect (tableRounds w poly 8 (topByte w (reflectByte i))) w &&& mask w := rfl
    _ = reflect (tableRounds w poly 8 (topByte w (reflectByte i))) w := reflect_and_mask _ h1 h2
    _ = reflect (tableEntry w poly false (reflectByte i)) w := (reflect_of_and_mask _ h1 h2).symm

/-! ### Linearity (R134 (a), (b)) -/

theorem topByte_xor (w : Nat) (i j : Byte) : topByte w (i ^^^ j) = topByte w i ^^^ topByte w j := by
  rw [topByte, BitVec.setWidth_xor, BitVec.shiftLeft_xor_distrib]
  rfl

theorem xor_and_mask (w : Nat) (u v : Word) : (u ^^^ v) &&& mask w = (u &&& mask w) ^^^ (v &&& mask w) := by
  apply BitVec.eq_of_getLsbD_eq
  intro k _
  simp only [BitVec.getLsbD_and, BitVec.getLsbD_xor, Bool.and_xor_distrib_right]

/-- R134 (b). -/
theorem tableEntry_xor (w : Nat) (poly : Word) (refIn : Bool) (i j : Byte) (h1 : 1 ≤ w) (h2 : w ≤ 64) :
    tableEntry w poly refIn (i ^^^ j) = tableEntry w poly refIn i ^^^ tableEntry w poly refIn j := by
  have hplain (i j : Byte) : tableEntry w poly false (i ^^^ j) = tableEntry w poly false i ^^^ tableEntry w poly false j := by
    simp only [tableEntry_false, topByte_xor, tableRounds_xor w poly h1 h2, xor_and_mask]
  cases refIn with
  | false => exact hplain i j
  | true => simp only [tableEntry_true poly _ h1 h2, reflectByte_xor, hplain, reflect_xor _ _ h2]

/-- R134 (a): index 0 is 0 XOR 0, so its entry is XORed with itself. -/
theorem tableEntry_zero (w : Nat) (poly : Word) (refIn : Bool) (h1 : 1 ≤ w) (h2 : w ≤ 64) :
    tableEntry w poly refIn 0 = 0 :=
  (tableEntry_xor w poly refIn 0 0 h1 h2).trans BitVec.xor_self

/-- Settles O18, from the two laws. -/
theorem tableIsLinear : Obligations.TableIsLinear := fun w poly refIn h1 h2 =>
  have h1' : 1 ≤ w := by omega
  ⟨tableEntry_zero w poly refIn h1' h2, fun i j => tableEntry_xor w poly refIn i j h1' h2⟩

/-! ### Landmarks (R134 (c)–(f)) -/

/-- R134 (c). -/
theorem tableEntry_lt (w : Nat) (poly : Word) (refIn : Bool) (i : Byte) (h1 : 1 ≤ w) (h2 : w ≤ 64) :
    (tableEntry w poly refIn i).toNat < 2 ^ w := and_mask_lt _ w h1 h2

/-- The last round of a run of rounds. -/
theorem tableRounds_succ_last (w : Nat) (poly : Word) (n : Nat) (r : Word) :
    tableRounds w poly (n + 1) r = tableRound w poly (tableRounds w poly n r) := by
  induction n generalizing r with
  | zero => rfl
  | succ n ih => exact ih (tableRound w poly r)

/-- Eight rounds on index 1 leave the polynomial: seven bring its one bit to the high bit, and the eighth shifts the bit out
and XORs poly in. -/
theorem tableRounds_topByte_one {w : Nat} (poly : Word) (h1 : 8 ≤ w) (h2 : w ≤ 64) :
    AgreeBelow w (tableRounds w poly 8 (topByte w 1)) poly := by
  have h1' : 1 ≤ w := by omega
  have hone (k : Nat) : (1 : Byte).getLsbD k = decide (k = 0) := by simp
  have hseven : tableRounds w poly 7 (topByte w 1) = topByte w 1 <<< 7 := by
    refine tableRounds_of_top_zero h1' h2 7 (by omega) fun k hk hk' => ?_
    rw [topByte_getLsbD 1 h1 h2 hk', hone, decide_eq_false (by omega : ¬k - (w - 8) = 0), Bool.and_false]
  have hhigh : (topByte w 1 <<< 7).getLsbD (w - 1) = true := by
    rw [BitVec.getLsbD_shiftLeft, topByte_getLsbD 1 h1 h2 (by omega), hone]
    simp
    omega
  rw [tableRounds_succ_last, hseven, tableRound_eq w poly _ h1' h2, hhigh, if_pos rfl, ← BitVec.shiftLeft_add]
  intro k hk
  rw [BitVec.getLsbD_xor, topByte_shiftLeft_agreeBelow 1 h1 k hk]
  simp

/-- R134 (d), the plain table. -/
theorem tableEntry_false_one {w : Nat} (poly : Word) (h1 : 8 ≤ w) (h2 : w ≤ 64) :
    tableEntry w poly false 1 = poly &&& mask w := (tableRounds_topByte_one poly h1 h2).and_mask (by omega) h2

/-- R134 (d), the reflected table: its index 0x80 is index 1 reflected. -/
theorem tableEntry_true_0x80 {w : Nat} (poly : Word) (h1 : 8 ≤ w) (h2 : w ≤ 64) :
    tableEntry w poly true 0x80 = reflect poly w := by
  have hindex : reflectByte 0x80 = 1 := by decide
  rw [tableEntry_true poly _ (by omega) h2, hindex, tableEntry_false_one poly h1 h2, reflect_of_and_mask poly (by omega) h2]

theorem tableRounds_congr_poly {w : Nat} {p q : Word} (h1 : 1 ≤ w) (h2 : w ≤ 64) (hpq : AgreeBelow w p q) (n : Nat)
    (r : Word) : AgreeBelow w (tableRounds w p n r) (tableRounds w q n r) := by
  induction n generalizing r with
  | zero => exact fun _ _ => rfl
  | succ n ih =>
    have hround : AgreeBelow w (tableRound w p r) (tableRound w q r) := by
      rw [tableRound_eq w p r h1 h2, tableRound_eq w q r h1 h2]
      refine AgreeBelow.xor (fun _ _ => rfl) ?_
      split
      · exact hpq
      · exact fun _ _ => rfl
    exact (ih _).trans (tableRounds_congr h1 h2 n hround)

/-- R134 (e): the rounds read poly below the width only. -/
theorem tableEntry_and_mask (w : Nat) (poly : Word) (refIn : Bool) (i : Byte) (h1 : 1 ≤ w) (h2 : w ≤ 64) :
    tableEntry w poly refIn i = tableEntry w (poly &&& mask w) refIn i := by
  have hplain (i : Byte) : tableEntry w poly false i = tableEntry w (poly &&& mask w) false i :=
    (tableRounds_congr_poly h1 h2 (agreeBelow_and_mask poly h1 h2).symm 8 (topByte w i)).and_mask h1 h2
  cases refIn with
  | false => exact hplain i
  | true => rw [tableEntry_true poly i h1 h2, tableEntry_true _ i h1 h2, hplain]

/-- Settles O19, landmark by landmark. -/
theorem tableLandmarks : Obligations.TableLandmarks := fun w poly h1 h2 =>
  have h1' : 1 ≤ w := by omega
  ⟨fun refIn i => tableEntry_lt w poly refIn i h1' h2, tableEntry_false_one poly h1 h2, tableEntry_true_0x80 poly h1 h2,
    fun refIn i => tableEntry_and_mask w poly refIn i h1' h2, fun i => tableEntry_true poly i h1' h2⟩

end Sys2Proof.Machine
end

section
/-! The table engine (spec/43_table_calc.md): CALCT (R141), the two engines' equality (R142) and the CRC of the empty message
(R143). What the shared end of CALC, CALCT and CALCD does is said once for each of its three outcomes. -/

namespace Sys2Proof.Machine

open Sys2Proof.Statements (HoldsBytes SomeUnwritten)

/-! ### The shared end of CALC, CALCT and CALCD, outcome by outcome -/

theorem calculateMessage_of_bufSize_lt (engine : List Byte → Word) {s : State} (hlen : s.cfg.bufSize < s.len.toNat) :
    calculateMessage engine s = .next (complete .lenRange s) := if_pos (decide_eq_true hlen)

theorem calculateMessage_of_someUnwritten (engine : List Byte → Word) {s : State} (hlen : s.len.toNat ≤ s.cfg.bufSize)
    (hbytes : SomeUnwritten s bufBase s.len.toNat) :
    calculateMessage engine s = .next { recordFault .uninit s with busy := false } := by
  have hrange : lenOutOfRange s = false := decide_eq_false (Nat.not_lt.2 hlen)
  have hmessage : messageBytes s = none := (messageBytes_eq_none s).2 hbytes
  simp [calculateMessage, hrange, hmessage, raiseFault]

theorem calculateMessage_of_holdsBytes (engine : List Byte → Word) {s : State} {bytes : List Byte}
    (hlen : s.len.toNat ≤ s.cfg.bufSize) (hlength : bytes.length = s.len.toNat) (hbytes : HoldsBytes s bufBase bytes) :
    calculateMessage engine s = .next (complete .ok { s with result := engine bytes }) := by
  have hrange : lenOutOfRange s = false := decide_eq_false (Nat.not_lt.2 hlen)
  have hmessage : messageBytes s = some bytes :=
    (messageBytes_eq_some s bytes).2 ⟨hlength, fun i hi => hbytes i (hlength ▸ hi)⟩
  simp [calculateMessage, hrange, hmessage]

/-- No byte of BUF is read. -/
theorem calculateMessage_of_len_zero (engine : List Byte → Word) {s : State} (hlen : s.len = 0) :
    calculateMessage engine s = .next (complete .ok { s with result := engine [] }) := by
  have hzero : s.len.toNat = 0 := congrArg BitVec.toNat hlen
  exact calculateMessage_of_holdsBytes engine (hzero ▸ Nat.zero_le _) hzero.symm fun _ hi => absurd hi (Nat.not_lt_zero _)

/-- R143: no byte step is taken. -/
theorem directCrc_nil (a : CrcParams) :
    directCrc a [] = ((if a.refOut then reflect a.init a.width else a.init) ^^^ a.xorOut) &&& mask a.width := rfl

/-! ### The statements -/

/-- Settles O26: the byte steps keep the two registers equal below the width, one of them reflected if refIn. -/
theorem tableEngineEqualsDirectEngine : Obligations.TableEngineEqualsDirectEngine := tableCrc_eq_directCrc

/-- Settles O31: CALCT's two checks of its own, then the three outcomes of the shared end. -/
theorem calctCommand : Obligations.CalctCommand := by
  intro s
  have hwide (hv : s.act.valid = true) (hw : 7 < s.act.width.toNat) :
      exec .calct s = calculateMessage (tableCrc s.act.params s.act.table) s := execCalct_wide s hv hw
  refine ⟨fun hv => ?noCalc, fun hv hw => ?tableNarrow, fun hv hw hlen => ?lenRange, fun hv hw hlen hbytes => ?uninit,
    fun bytes hv hw hlen hlength hbytes => ?ok⟩
  case noCalc => exact execCrc_without_calculator rfl hv
  case tableNarrow => exact execCalct_narrow s hv hw
  case lenRange => exact (hwide hv hw).trans (calculateMessage_of_bufSize_lt _ hlen)
  case uninit => exact (hwide hv hw).trans (calculateMessage_of_someUnwritten _ hlen hbytes)
  case ok => exact (hwide hv hw).trans (calculateMessage_of_holdsBytes _ hlen hlength hbytes)

/-- Settles O35: all three commands do what CALCD does (R182), which is DirectCRC of no byte. -/
theorem emptyMessageGivesInitXorOut : Obligations.EmptyMessageGivesInitXorOut := by
  intro s i h hv hlen hi
  obtain ⟨-, ⟨hmask, -⟩, -⟩ := h.1 hv
  obtain ⟨hcalc, hcalct⟩ := calculationCommandsAgree s h hv
  have hcalcd : exec i s = exec .calcd s := by
    obtain rfl | rfl | ⟨rfl, hw⟩ := hi
    · exact hcalc
    · rfl
    · exact hcalct hw
  calc exec i s
    _ = calculateMessage (directCrc s.act.params) s := hcalcd.trans (execCalcd_valid s hv)
    _ = .next (complete .ok { s with result := directCrc s.act.params [] }) := calculateMessage_of_len_zero _ hlen
    _ = _ := by rw [directCrc_nil, hmask]; rfl

end Sys2Proof.Machine
end

section
/-! The bit-serial engine (spec/44_direct.md): CALCD (R151), its parity corner case, and the parameter bits that do not
matter (R152 (b)). -/

namespace Sys2Proof.Machine

open Sys2Proof.Statements (messageBits foldl_directByte_eq)

/-! ### Parameter bits at the width and above (R152 (b)) -/

/-- The parameters with poly, init and xorOut masked to the width. -/
def CrcParams.masked (a : CrcParams) : CrcParams :=
  { a with poly := a.poly &&& mask a.width, init := a.init &&& mask a.width, xorOut := a.xorOut &&& mask a.width }

/-- A bit step carries bits upwards only: below the width it reads the register and poly below the width. -/
theorem directBit_agree_masked {a : CrcParams} (h1 : 1 ≤ a.width) (h2 : a.width ≤ 64) {u v : Word} (b : Bool)
    (h : AgreeBelow a.width u v) : AgreeBelow a.width (directBit a u b) (directBit a.masked v b) := by
  rw [directBit_eq a u b h1 h2, directBit_eq a.masked v b h1 h2, h (a.width - 1) (by omega)]
  refine (h.shiftLeft 1).xor ?_
  change AgreeBelow a.width (if v.getLsbD (a.width - 1) != b then a.poly else 0)
    (if v.getLsbD (a.width - 1) != b then a.poly &&& mask a.width else 0)
  split
  · exact (agreeBelow_and_mask a.poly h1 h2).symm
  · exact fun _ _ => rfl

theorem foldl_directBit_agree_masked {a : CrcParams} (h1 : 1 ≤ a.width) (h2 : a.width ≤ 64) (bits : List Bool)
    {u v : Word} (h : AgreeBelow a.width u v) :
    AgreeBelow a.width (bits.foldl (directBit a) u) (bits.foldl (directBit a.masked) v) := by
  induction bits generalizing u v with
  | nil => exact h
  | cons b bits ih => exact ih (directBit_agree_masked h1 h2 b h)

/-- The end of R150 reads the register and xorOut below the width only. -/
theorem directFinish_masked {a : CrcParams} (h1 : 1 ≤ a.width) (h2 : a.width ≤ 64) {u v : Word}
    (h : AgreeBelow a.width u v) : directFinish a u = directFinish a.masked v := by
  have hreflected : AgreeBelow a.width (if a.refOut then reflect u a.width else u)
      (if a.refOut then reflect v a.width else v) := by
    split
    · exact fun _ _ => congrArg (BitVec.getLsbD · _) (h.reflect_eq h2)
    · exact h
  exact (hreflected.xor (agreeBelow_and_mask a.xorOut h1 h2).symm).and_mask h1 h2

/-- Settles O28: the registers start equal below the width, and the bit steps and the end keep them so. -/
theorem highParameterBitsAreNeutral : Obligations.HighParameterBitsAreNeutral := by
  intro a bytes h1 h2
  have hinit : AgreeBelow a.width a.init a.masked.init := (agreeBelow_and_mask a.init h1 h2).symm
  calc directCrc a bytes
    _ = directFinish a ((messageBits a.refIn bytes).foldl (directBit a) a.init) := by
      rw [directCrc, foldl_directByte_eq]
    _ = directFinish a.masked ((messageBits a.refIn bytes).foldl (directBit a.masked) a.masked.init) :=
      directFinish_masked h1 h2 (foldl_directBit_agree_masked h1 h2 _ hinit)
    _ = directCrc a.masked bytes := by
      rw [directCrc, foldl_directByte_eq]
      rfl

/-! ### Width 1 (R151, corner cases) -/

/-- The parameters of the parity: width 1, poly 1, init 0, xorOut 0. -/
def parityParams (refIn refOut : Bool) : CrcParams := ⟨1, 1, 0, 0, refIn, refOut⟩

/-- At width 1 a bit step adds the message bit to the register's one bit modulo 2. -/
theorem directBit_parity_getLsbD_zero (refIn refOut : Bool) (crc : Word) (b : Bool) :
    (directBit (parityParams refIn refOut) crc b).getLsbD 0 = (crc.getLsbD 0 ^^ b) := by
  rw [directBit_eq _ crc b (le_refl 1) (by decide : 1 ≤ 64)]
  change (crc <<< 1 ^^^ if crc.getLsbD 0 ^^ b then (1 : Word) else 0).getLsbD 0 = (crc.getLsbD 0 ^^ b)
  cases crc.getLsbD 0 ^^ b <;> simp

theorem foldl_directBit_parity_getLsbD_zero (refIn refOut : Bool) (bits : List Bool) :
    (bits.foldl (directBit (parityParams refIn refOut)) 0).getLsbD 0 = (bits.count true).bodd := by
  induction bits using List.reverseRecOn with
  | nil => rfl
  | append_singleton bits b ih =>
    have hbit : ([b].count true).bodd = b := by cases b <;> rfl
    rw [List.foldl_append, List.foldl_cons, List.foldl_nil, directBit_parity_getLsbD_zero, ih, List.count_append,
      Nat.bodd_add, hbit]

/-- Reflect leaves a one-bit field as it is, so both values of refOut keep the register's one bit. -/
theorem directFinish_parity_toNat (refIn refOut : Bool) (crc : Word) :
    (directFinish (parityParams refIn refOut) crc).toNat = (crc.getLsbD 0).toNat := by
  have hmod (v : Word) : (v &&& mask 1).toNat = (v.getLsbD 0).toNat := by
    rw [and_mask_toNat v 1 (le_refl 1) (by decide), BitVec.getLsbD, Nat.toNat_testBit, pow_zero, Nat.div_one, pow_one]
  have hreflect : (reflect crc 1).getLsbD 0 = crc.getLsbD 0 := reflect_getLsbD_of_lt crc (by decide) Nat.zero_lt_one
  change (((if refOut then reflect crc 1 else crc) ^^^ 0#64) &&& mask 1).toNat = (crc.getLsbD 0).toNat
  rw [hmod, BitVec.xor_zero]
  cases refOut with
  | false => rfl
  | true => exact congrArg Bool.toNat hreflect

/-- Settles O29: the one bit of the register is the parity of the message bits taken so far. -/
theorem widthOneGivesParity : Obligations.WidthOneGivesParity := by
  intro refIn refOut bytes
  change (directFinish (parityParams refIn refOut) (bytes.foldl (directByte (parityParams refIn refOut)) 0)).toNat = _
  rw [directFinish_parity_toNat, foldl_directByte_eq, foldl_directBit_parity_getLsbD_zero, Nat.mod_two_of_bodd]
  rfl

/-! ### CALCD (R151) -/

/-- Settles O30: CALCD's one check of its own, then the three outcomes of the shared end. -/
theorem calcdCommand : Obligations.CalcdCommand := by
  intro s
  have hvalid (hv : s.act.valid = true) : exec .calcd s = calculateMessage (directCrc s.act.params) s :=
    execCalcd_valid s hv
  refine ⟨fun hv => ?noCalc, fun hv hlen => ?lenRange, fun hv hlen hbytes => ?uninit,
    fun bytes hv hlen hlength hbytes => ?ok⟩
  case noCalc => exact execCrc_without_calculator rfl hv
  case lenRange => exact (hvalid hv).trans (calculateMessage_of_bufSize_lt _ hlen)
  case uninit => exact (hvalid hv).trans (calculateMessage_of_someUnwritten _ hlen hbytes)
  case ok => exact (hvalid hv).trans (calculateMessage_of_holdsBytes _ hlen hlength hbytes)

end Sys2Proof.Machine
end

section
/-! The registry (spec/45_registry.md): name equality (R161), LOOKUP (R160, R163) and ENUM (R162). The search answers with the
first record that has an equal alias; what LOOKUP does is said once for each of its four outcomes. -/

namespace Sys2Proof.Machine

open Sys2Proof.Statements (Answers ConstructedFrom HoldsBytes SomeUnwritten)

/-! ### Name equality (R161) -/

theorem fold_toNat (c : Byte) :
    (fold c).toNat = if 0x61 ≤ c.toNat ∧ c.toNat ≤ 0x7A then c.toNat - 0x20 else c.toNat := by
  unfold fold
  split
  · bv_omega
  · rfl

theorem nameEq_iff_getD (a q : Name) :
    nameEq a q = true ↔ a.length = q.length ∧ ∀ i, i < a.length → fold (a.getD i 0) = fold (q.getD i 0) := by
  simp only [nameEq_iff_map_fold, List.ext_getElem_iff, List.length_map, List.getElem_map]
  refine and_congr_right fun hlength => forall_congr' fun i => ⟨fun h hi => ?_, fun h hi hi' => ?_⟩
  · simpa [hi, hlength ▸ hi] using h hi (hlength ▸ hi)
  · simpa [hi, hi'] using h hi

/-- Settles O20: NameEq compares the folded byte strings. -/
theorem namesCompareByAsciiFold : Obligations.NamesCompareByAsciiFold := ⟨fold_toNat, nameEq_iff_getD⟩

/-! ### LOOKUP, outcome by outcome (R160) -/

theorem any_nameEq_iff_answers (v : Variant) (q : Name) : v.names.any (fun a => nameEq a q) = true ↔ Answers v q :=
  List.any_eq_true

theorem any_nameEq_eq_false_iff_not_answers (v : Variant) (q : Name) :
    v.names.any (fun a => nameEq a q) = false ↔ ¬Answers v q :=
  Bool.eq_false_iff.trans (not_congr (any_nameEq_iff_answers v q))

theorem findVariant_of_no_answers {vs : List Variant} {q : Name} (hnone : ∀ v ∈ vs, ¬Answers v q) :
    findVariant q 0 vs = none :=
  (findVariant_eq_none q 0 vs).2 fun v hv => (any_nameEq_eq_false_iff_not_answers v q).2 (hnone v hv)

theorem findVariant_of_first_answers {vs : List Variant} {q : Name} {k : Nat} {v : Variant} (hv : vs[k]? = some v)
    (hq : Answers v q) (hfirst : ∀ j u, j < k → vs[j]? = some u → ¬Answers u q) :
    findVariant q 0 vs = some (k, v) :=
  (findVariant_eq_some q 0 vs k v).2 ⟨k, (Nat.zero_add k).symm, hv, (any_nameEq_iff_answers v q).2 hq,
    fun j hj u hu => (any_nameEq_eq_false_iff_not_answers u q).2 (hfirst j u hj hu)⟩

theorem execLookup_of_nameMax_lt {s : State} (hlen : s.cfg.nameMax < s.nameLen.toNat) :
    execLookup s = .next (complete .nameRange (clearValid s)) := if_pos (decide_eq_true hlen)

theorem nameOutOfRange_eq_false {s : State} (hlen : s.nameLen.toNat ≤ s.cfg.nameMax) : nameOutOfRange s = false :=
  decide_eq_false (Nat.not_lt.2 hlen)

theorem queryBytes_of_holdsBytes {s : State} {q : Name} (hlength : q.length = s.nameLen.toNat)
    (hbytes : HoldsBytes s nameBase q) : queryBytes s = some q :=
  (queryBytes_eq_some s q).2 ⟨hlength, fun i hi => hbytes i (hlength ▸ hi)⟩

theorem execLookup_of_someUnwritten {s : State} (hlen : s.nameLen.toNat ≤ s.cfg.nameMax)
    (hbytes : SomeUnwritten s nameBase s.nameLen.toNat) :
    execLookup s = .next { recordFault .uninit s with busy := false } := by
  have hquery : queryBytes s = none := (queryBytes_eq_none s).2 hbytes
  simp [execLookup, nameOutOfRange_eq_false hlen, hquery, raiseFault]

section
variable {s : State} {q : Name} (hlen : s.nameLen.toNat ≤ s.cfg.nameMax) (hlength : q.length = s.nameLen.toNat)
  (hbytes : HoldsBytes s nameBase q)
include hlen hlength hbytes

theorem execLookup_of_not_found (hnone : findVariant q 0 s.cfg.catalog = none) :
    execLookup s = .next (complete .notFound (clearValid s)) := by
  simp [execLookup, nameOutOfRange_eq_false hlen, queryBytes_of_holdsBytes hlength hbytes, hnone, raiseErr]

theorem execLookup_of_found {k : Nat} {v : Variant} (hfound : findVariant q 0 s.cfg.catalog = some (k, v)) :
    execLookup s = .next (complete .ok (construct v.width v.poly v.init v.xorOut v.refIn v.refOut v.checkValue
      (BitVec.ofNat 8 k) s)) := by
  simp [execLookup, nameOutOfRange_eq_false hlen, queryBytes_of_holdsBytes hlength hbytes, hfound]

end

/-- Settles O21: the four outcomes of LOOKUP, the last two by what the search answers. -/
theorem lookupCommand : Obligations.LookupCommand := by
  intro s
  refine ⟨fun hlen => ?nameRange, fun hlen hbytes => ?uninit, fun q hlen hlength hbytes =>
    ⟨fun hnone => ?notFound, fun k v hv h1 h2 hq hfirst => ?ok⟩⟩
  case nameRange => exact execLookup_of_nameMax_lt hlen
  case uninit => exact execLookup_of_someUnwritten hlen hbytes
  case notFound => exact execLookup_of_not_found hlen hlength hbytes (findVariant_of_no_answers hnone)
  case ok => exact ⟨_, execLookup_of_found hlen hlength hbytes (findVariant_of_first_answers hv hq hfirst),
      construct_constructedFrom _ _ _ _ _ _ _ _ s h1 h2⟩

/-! ### LOOKUP in a well-formed catalogue (R163) -/

/-- CAT_COUNT is at most 255 (R121 (a)), so INDEX holds every index of the catalogue. -/
theorem ofNat_catalog_index_toNat {cfg : Config} (hcat : catalogWf cfg = true) {k : Nat} {v : Variant}
    (hv : cfg.catalog[k]? = some v) : (BitVec.ofNat 8 k).toNat = k := by
  have hk : k < cfg.catalog.length := (List.getElem?_eq_some_iff.1 hv).1
  obtain ⟨-, hmax⟩ := catalogWf_length hcat
  exact Nat.mod_eq_of_lt (by omega)

/-- Settles O22: the aliases are distinct, so the search finds entry k, and Construct loads it as it stands. -/
theorem lookupLoadsTheNamedEntry : Obligations.LookupLoadsTheNamedEntry := by
  intro s k v a q hcat hv ha haq hlength hbytes
  obtain ⟨hparams, hcheck⟩ := construct_wf_variant hcat (List.mem_of_getElem? hv) (BitVec.ofNat 8 k) s
  exact ⟨_, execLookup_of_answers hcat hv ⟨a, ha, haq⟩ hlength hbytes, rfl, rfl, ofNat_catalog_index_toNat hcat hv,
    hparams, hcheck⟩

/-! ### ENUM (R162) -/

/-- A byte of ONAME's window after ENUM: the name, then zeros. -/
theorem read_writeBytes_paddedName (m : Memory) (base nameMax : Nat) (n : Name) {i : Nat} (hi : i < nameMax) :
    (m.writeBytes base (paddedName nameMax n)).read (base + i) = some (if i < n.length then n.getD i 0 else 0) := by
  have hin : base ≤ base + i ∧ base + i < base + (paddedName nameMax n).length := by rw [paddedName_length]; omega
  rw [Memory.read_writeBytes, if_pos hin, Nat.add_sub_cancel_left, paddedName_getElem?, if_pos hi]
  split
  · rfl
  · next hend => rw [List.getD_eq_default _ _ (Nat.not_lt.1 hend)]

/-- Settles O23: the two ways ENUM can end, by whether entry k is there. -/
theorem enumCommand : Obligations.EnumCommand := by
  intro s k
  obtain ⟨hout, hexec⟩ | ⟨v, hv, hexec⟩ := execEnum_cases k s
  · refine ⟨fun v hv => ?_, fun _ => hexec⟩
    cases hv.symm.trans (List.getElem?_eq_none hout)
  · refine ⟨fun u hu => ?_, fun hout => ?_⟩
    · cases hv.symm.trans hu
      exact ⟨_, hexec, fun i hi => read_writeBytes_paddedName _ _ _ _ hi,
        fun a ha => performs_read_outside_oname (.named hv) ha, Memory.wf_writeBytes _ _ _⟩
    · cases hv.symm.trans (List.getElem?_eq_none hout)

end Sys2Proof.Machine
end

section
/-! The self-test (spec/46_selftest.md): CHECK (R170) is Dispatch (R181) of a constant message, compared with A_CHECK. -/

namespace Sys2Proof.Machine

/-- R170: the nine bytes that stand in the block spell the message of the specification. -/
theorem kat_eq_ascii : kat = ascii "123456789" := by decide

/-- R180, R181: which engine Dispatch takes, by the width. -/
theorem dispatchCrc_eq_ite (a : CrcParams) (t : Table) (bytes : List Byte) :
    dispatchCrc a t bytes = if 7 < a.width then tableCrc a t bytes else directCrc a bytes := by
  split
  · next hwide => exact dispatchCrc_wide a t bytes hwide
  · next hnarrow => exact dispatchCrc_narrow a t bytes (Nat.not_lt.1 hnarrow)

/-- Settles O33: without a calculator NO_CALC; with one, RESULT is Dispatch of the constant, whatever the comparison says. -/
theorem checkCommand : Obligations.CheckCommand := by
  intro s
  refine ⟨fun hv => ?noCalc, fun hv => ⟨dispatchCrc s.act.params s.act.table kat, ?result, ?compared⟩⟩
  case noCalc => exact execCrc_without_calculator rfl hv
  case result =>
    rw [← kat_eq_ascii]
    exact dispatchCrc_eq_ite s.act.params s.act.table kat
  case compared => exact execCheck_valid s hv

end Sys2Proof.Machine
end

section
/-! Dispatch (spec/47_dispatch.md): CALC (R180) runs the engine the width selects (R181). -/

namespace Sys2Proof.Machine

/-- Settles O32: CALC's one check of its own, then the three outcomes of the shared end, the last one by the width. -/
theorem calcCommand : Obligations.CalcCommand := by
  intro s
  have hvalid (hv : s.act.valid = true) :
      exec .calculate s = calculateMessage (dispatchCrc s.act.params s.act.table) s := execCalc_valid s hv
  refine ⟨fun hv => ?noCalc, fun hv hlen => ?lenRange, fun hv hlen hbytes => ?uninit,
    fun bytes hv hlen hlength hbytes => ?ok⟩
  case noCalc => exact execCrc_without_calculator rfl hv
  case lenRange => exact (hvalid hv).trans (calculateMessage_of_bufSize_lt _ hlen)
  case uninit => exact (hvalid hv).trans (calculateMessage_of_someUnwritten _ hlen hbytes)
  case ok =>
    have hok := (hvalid hv).trans (calculateMessage_of_holdsBytes _ hlen hlength hbytes)
    refine ⟨fun hwide => ?_, fun hnarrow => ?_⟩
    · rwa [dispatchCrc_wide s.act.params s.act.table bytes hwide] at hok
    · rwa [dispatchCrc_narrow s.act.params s.act.table bytes hnarrow] at hok

end Sys2Proof.Machine
end

section
/-! Error codes (spec/60_exceptions.md R190, R193, R197): what a command may leave in STATUS.ERR. -/

namespace Sys2Proof.Machine

open Sys2Proof.Statements (isCrcCommand mayRaise)

/-- How a command that began in `s` may leave ERR: one of the given codes, or as it was with UNINIT recorded (R197). -/
def EndsWithCode (codes : List ErrCode) (s t : State) : Prop :=
  t.err ∈ codes ∨ (t.err = s.err ∧ t.faults = s.faults.add .uninit)

/-- The shared end of CALC, CALCT and CALCD leaves a code of every command that has these two. -/
theorem calculateMessage_endsWithCode {engine : List Byte → Word} {codes : List ErrCode} {s t : State}
    (h : calculateMessage engine s = .next t) (hok : .ok ∈ codes) (hrange : .lenRange ∈ codes) :
    EndsWithCode codes s t := by
  obtain ⟨-, hc⟩ | ⟨-, -, hc⟩ | ⟨bytes, -, -, hc⟩ := calculateMessage_cases engine s <;> cases hc.symm.trans h
  · exact .inl hrange
  · exact .inr ⟨rfl, rfl⟩
  · exact .inl hok

/-- The codes of CALC, CALCT, CALCD and CHECK: NO_CALC without a calculator, then each command's own. -/
theorem execCrc_endsWithCode {i : Instr} {s t : State} (hi : isCrcCommand i = true) (h : exec i s = .next t) :
    EndsWithCode (mayRaise i) s t := by
  cases hv : s.act.valid with
  | false =>
    cases (execCrc_without_calculator hi hv).symm.trans h
    cases i with
    | calculate | calct | calcd | check => exact .inl (by simp [mayRaise])
    | cfg | lookup | enum | reflect => cases hi
  | true =>
    cases i with
    | calculate =>
      exact calculateMessage_endsWithCode ((execCalc_valid s hv).symm.trans h) (by simp [mayRaise]) (by simp [mayRaise])
    | calcd =>
      exact calculateMessage_endsWithCode ((execCalcd_valid s hv).symm.trans h) (by simp [mayRaise]) (by simp [mayRaise])
    | calct =>
      obtain hw | hw := Nat.lt_or_ge 7 s.act.width.toNat
      · exact calculateMessage_endsWithCode ((execCalct_wide s hv hw).symm.trans h) (by simp [mayRaise])
          (by simp [mayRaise])
      · cases (execCalct_narrow s hv hw).symm.trans h
        exact .inl (by simp [mayRaise])
    | check =>
      cases (execCheck_valid s hv).symm.trans h
      left
      rw [complete_err]
      split <;> simp [mayRaise]
    | cfg | lookup | enum | reflect => cases hi

/-- Every command completes with a code of its own, or with UNINIT recorded and ERR as it was (R190, R197). -/
theorem exec_endsWithCode {i : Instr} {s t : State} (h : exec i s = .next t) : EndsWithCode (mayRaise i) s t := by
  cases i with
  | cfg =>
    obtain ⟨-, hc⟩ | ⟨-, hc⟩ := execCfg_cases s <;> cases hc.symm.trans h <;> exact .inl (by simp [mayRaise])
  | lookup =>
    obtain ⟨-, hc⟩ | ⟨-, -, hc⟩ | ⟨q, -, -, -, hc⟩ | ⟨q, k, v, -, -, -, hc⟩ := execLookup_cases s <;>
      cases hc.symm.trans h
    · exact .inl (by simp [mayRaise])
    · exact .inr ⟨rfl, rfl⟩
    · exact .inl (by simp [mayRaise])
    · exact .inl (by simp [mayRaise])
  | enum k =>
    obtain ⟨-, hc⟩ | ⟨v, -, hc⟩ := execEnum_cases k s <;> cases hc.symm.trans h <;> exact .inl (by simp [mayRaise])
  | reflect w =>
    obtain ⟨-, hc⟩ | ⟨-, hc⟩ := execReflect_cases w s <;> cases hc.symm.trans h <;> exact .inl (by simp [mayRaise])
  | calculate | calct | calcd | check => exact execCrc_endsWithCode rfl h

/-- Codes 10 to 15 are reserved (R190). -/
theorem errNumber_le (e : ErrCode) : (errNumber e).toNat ≤ 9 := by cases e <;> decide

/-- The quotient of STATUS by 256 is ERR: the bits below are BUSY, HAZ and AERR (R24). -/
theorem statusWord_toNat_div (s : State) : (statusWord s).toNat / 256 = (errNumber s.err).toNat := by
  obtain ⟨hstatus, -, -, -⟩ := packedRegisterLayouts
  have hbusy := s.busy.toNat_le
  have hhaz := s.haz.toNat_le
  have haerr := s.aerr.toNat_le
  rw [hstatus]
  omega

/-- Settles O46: the codes of each command, and STATUS shows the number of one of the ten. -/
theorem commandsRaiseTheirOwnCodes : Obligations.CommandsRaiseTheirOwnCodes :=
  ⟨fun _ _ _ h => exec_endsWithCode h, fun s => (statusWord_toNat_div s).trans_le (errNumber_le s.err)⟩

end Sys2Proof.Machine
end

section
/-! Reset, the ENGINE's turn and hazards (spec/70_reset_and_hazards.md R220-R230): what a reset sets, what the ENGINE performs,
and that what the HOST does while a command is pending does not reach it. -/

namespace Sys2Proof.Machine

open Sys2Proof.Statements (isCrcCommand)

/-! ### Reset (R220-R222) -/

/-- STATUS after a reset: ERR = OK, and every bit 0. -/
theorem statusWord_resetOf (cfg : Config) : statusWord (State.resetOf cfg) = 0 := by
  obtain ⟨hstatus, -, -, -⟩ := packedRegisterLayouts
  exact BitVec.eq_of_toNat_eq (hstatus (State.resetOf cfg))

/-- A_FLAGS after a reset: INDEX = 0xFF, and every other bit 0. -/
theorem aFlagsWord_reset : aFlagsWord Calculator.reset = 0xFF00 := by decide

theorem pFlagsWord_reset : pFlagsWord Staging.reset = 0 := by decide

theorem readReg_resetOf (cfg : Config) (r : Reg) : readReg r (State.resetOf cfg) =
    if r = .caps then capsWord cfg else if r = .aFlags then 0xFF00 else 0 := by
  cases r with
  | status => exact statusWord_resetOf cfg
  | aFlags => exact aFlagsWord_reset
  | pFlags => exact pFlagsWord_reset
  | _ => rfl

/-- After a reset nothing is listed. -/
theorem memRead_resetOf (cfg : Config) (a : Nat) : memRead (State.resetOf cfg) a = Memory.unlisted a := rfl

/-- Settles O1: the registers as said; of the bytes, those of ONAME's window alone have a value unlisted. -/
theorem resetSetsEveryField : Obligations.ResetSetsEveryField := by
  refine fun cfg => ⟨readReg_resetOf cfg, rfl, rfl, rfl, fun h i => ?_⟩
  have hname := configWf_nameMax h
  simp only [memRead_resetOf, Memory.unlisted, nameBase, onameBase, tableBase, bufBase]
  exact ⟨fun _ => if_neg (by omega), fun hi => ⟨if_neg (by omega), if_pos (by omega)⟩⟩

/-- Settles O2: the step is the reset of the block, whatever the rest of the state is. -/
theorem resetOverridesEverything : Obligations.ResetOverridesEverything := fun s _ he => step_cons s he

/-! ### The ENGINE's turn (R225, R227) -/

/-- Settles O6: the turn is not enabled with BUSY = 0, and performs what CMD decodes to with BUSY = 1. -/
theorem engineTurnRunsPendingCommand : Obligations.EngineTurnRunsPendingCommand := by
  refine fun s rest turn => ⟨fun hb => ?_, fun i hb hd => ?_⟩ <;> rw [step_engineTurn turn, applyEvent]
  · exact if_neg (by simp [hb])
  · rw [if_pos hb]
    exact engineStep_command hd

/-! ### Host transactions while a command is pending (R228-R230) -/

/-- `t` has the command pending that `s` has, with all its inputs: the two differ at most in HAZ, AERR and FAULTS, in what the
HOST has read, and in the count of draws. -/
def KeepsPending (s t : State) : Prop :=
  t = { s with haz := t.haz, aerr := t.aerr, faults := t.faults, reads := t.reads, draws := t.draws }

theorem KeepsPending.trans {s t u : State} (hst : KeepsPending s t) (htu : KeepsPending t u) : KeepsPending s u := by
  rw [KeepsPending] at *
  rw [htu, hst]

theorem KeepsPending.with_events {s t : State} (h : KeepsPending s t) (es : List Event) :
    KeepsPending { s with events := es } { t with events := es } :=
  (congrArg (fun u : State => { u with events := es }) h :)

theorem KeepsPending.busy {s t : State} (h : KeepsPending s t) : t.busy = s.busy := (congrArg State.busy h :)

theorem KeepsPending.events {s t : State} (h : KeepsPending s t) : t.events = s.events := (congrArg State.events h :)

theorem hostRead_keepsPending (a n : Nat) {s : State} (hb : s.busy = true) : KeepsPending s (hostRead a n s) := by
  obtain ⟨-, hr⟩ | ⟨v, d, e, rfl | hidle, hr⟩ := hostRead_effect a n s
  · rw [hr]
    rfl
  · rw [hr]
    rfl
  · exact absurd (hb.symm.trans hidle) nofun

/-- A well-formed write while busy is a hazard (R228). -/
theorem hostWrite_busy {s : State} {a n : Nat} (v : Word) (ht : writeTarget s a n ≠ none) (hb : s.busy = true) :
    hostWrite a n v s = hazard s := by
  obtain ⟨hnone, -⟩ | ⟨t, -, -, hw⟩ | ⟨t, -, hidle, -⟩ := hostWrite_cases a n v s
  · exact absurd hnone ht
  · exact hw
  · exact absurd (hb.symm.trans hidle) nofun

theorem hostWrite_keepsPending (a n : Nat) (v : Word) {s : State} (hb : s.busy = true) :
    KeepsPending s (hostWrite a n v s) := by
  by_cases ht : writeTarget s a n = none
  · rw [hostWrite_error v ht]
    rfl
  · rw [hostWrite_busy v ht hb]
    rfl

/-- One transaction of the HOST, taken as a step. -/
theorem step_keepsPending {s t : State} {e : Event} {rest : List Event} (hb : s.busy = true) (he : s.events = e :: rest)
    (hhost : (∃ a n, e = .read a n) ∨ ∃ a n v, e = .write a n v) (h : step s = .next t) :
    KeepsPending { s with events := rest } t := by
  rw [step_cons s he] at h
  obtain ⟨a, n, rfl⟩ | ⟨a, n, v, rfl⟩ := hhost <;> cases h
  · exact hostRead_keepsPending a n hb
  · exact hostWrite_keepsPending a n v hb

theorem run_succ_of_step (M : Host.Core) (k : Nat) {s u : M.State} (h : M.step s = .next u) :
    M.run (k + 1) s = M.run k u := by
  rw [Host.Core.run, h]

/-- Any number of transactions of the HOST, by induction over their list. -/
theorem run_keepsPending {es rest : List Event} {s t : State} (hb : s.busy = true) (he : s.events = es ++ rest)
    (hhost : ∀ e ∈ es, (∃ a n, e = .read a n) ∨ ∃ a n v, e = .write a n v) (h : core.run es.length s = .next t) :
    KeepsPending { s with events := rest } t := by
  induction es generalizing s with
  | nil =>
    cases h
    rw [← List.nil_append rest, ← he]
    rfl
  | cons e es ih =>
    obtain ⟨u, hu⟩ := everyStepGoesOn s
    have hrun : core.run es.length u = .next t := (run_succ_of_step core es.length hu).symm.trans h
    have hstep := step_keepsPending hb he (hhost e List.mem_cons_self) hu
    have htail := ih (hstep.busy.trans hb) hstep.events (fun e he => hhost e (List.mem_cons_of_mem _ he)) hrun
    exact (hstep.with_events rest).trans htail

/-- Settles O47: no transaction reaches what the command reads or writes. -/
theorem pendingCommandKeepsItsInputs : Obligations.PendingCommandKeepsItsInputs := by
  intro es s t hb he hhost h
  have hkeeps : KeepsPending { s with events := [] } t :=
    run_keepsPending hb (he.trans (List.append_nil es).symm) hhost h
  rw [hkeeps]
  exact ⟨hb, rfl, rfl, rfl, rfl, rfl, rfl, rfl, rfl, rfl, rfl⟩

/-! ### A write while busy (R228) -/

/-- The state after a write while busy was dropped: `rest` is what the HOST then has left. -/
def dropWrite (rest : List Event) (s : State) : State := hazard { s with events := rest }

section
variable (rest : List Event) {s t : State}

theorem calculateMessage_dropWrite {engine : List Byte → Word} (h : calculateMessage engine s = .next t) :
    calculateMessage engine (dropWrite rest s) = .next (dropWrite rest t) := by
  obtain ⟨hlen, hc⟩ | ⟨hlen, hnone, hc⟩ | ⟨bytes, hlen, hsome, hc⟩ := calculateMessage_cases engine s <;>
    cases hc.symm.trans h
  · exact calculateMessage_of_bufSize_lt engine (s := dropWrite rest s) hlen
  · exact calculateMessage_of_someUnwritten engine (s := dropWrite rest s) hlen ((messageBytes_eq_none s).1 hnone)
  · obtain ⟨hlength, hbytes⟩ := (messageBytes_eq_some s bytes).1 hsome
    exact calculateMessage_of_holdsBytes engine (s := dropWrite rest s) hlen hlength fun i hi => hbytes i (hlength ▸ hi)

theorem execCfg_dropWrite (h : execCfg s = .next t) : execCfg (dropWrite rest s) = .next (dropWrite rest t) := by
  obtain ⟨hw, hc⟩ | ⟨⟨h1, h2⟩, hc⟩ := execCfg_cases s <;> cases hc.symm.trans h
  · exact if_pos hw
  · exact if_neg (not_or.2 ⟨Nat.not_lt.2 h1, Nat.not_lt.2 h2⟩)

theorem execReflect_dropWrite {w : Nat} (h : execReflect w s = .next t) :
    execReflect w (dropWrite rest s) = .next (dropWrite rest t) := by
  obtain ⟨hw, hc⟩ | ⟨⟨h1, h2⟩, hc⟩ := execReflect_cases w s <;> cases hc.symm.trans h
  · exact if_pos hw
  · exact if_neg (not_or.2 ⟨Nat.not_lt.2 h1, Nat.not_lt.2 h2⟩)

theorem execEnum_dropWrite {k : Nat} (h : execEnum k s = .next t) :
    execEnum k (dropWrite rest s) = .next (dropWrite rest t) := by
  obtain ⟨hk, hc⟩ | ⟨v, hv, hc⟩ := execEnum_cases k s <;> cases hc.symm.trans h
  · have hnone : (dropWrite rest s).cfg.catalog[k]? = none := List.getElem?_eq_none hk
    rw [execEnum, hnone]
    rfl
  · have hsome : (dropWrite rest s).cfg.catalog[k]? = some v := hv
    rw [execEnum, hsome]
    rfl

theorem execLookup_dropWrite (h : execLookup s = .next t) :
    execLookup (dropWrite rest s) = .next (dropWrite rest t) := by
  obtain ⟨hlen, hc⟩ | ⟨hlen, hnone, hc⟩ | ⟨q, hlen, hq, hf, hc⟩ | ⟨q, k, v, hlen, hq, hf, hc⟩ := execLookup_cases s <;>
    cases hc.symm.trans h
  · exact execLookup_of_nameMax_lt (s := dropWrite rest s) hlen
  · exact execLookup_of_someUnwritten (s := dropWrite rest s) hlen ((queryBytes_eq_none s).1 hnone)
  · obtain ⟨hlength, hbytes⟩ := (queryBytes_eq_some s q).1 hq
    exact execLookup_of_not_found (s := dropWrite rest s) hlen hlength (fun i hi => hbytes i (hlength ▸ hi)) hf
  · obtain ⟨hlength, hbytes⟩ := (queryBytes_eq_some s q).1 hq
    exact execLookup_of_found (s := dropWrite rest s) hlen hlength (fun i hi => hbytes i (hlength ▸ hi)) hf

/-- What CALC, CALCT, CALCD and CHECK read is not touched by a dropped write. -/
theorem execCrc_dropWrite {i : Instr} (hi : isCrcCommand i = true) (h : exec i s = .next t) :
    exec i (dropWrite rest s) = .next (dropWrite rest t) := by
  cases hv : s.act.valid with
  | false =>
    cases (execCrc_without_calculator hi hv).symm.trans h
    exact execCrc_without_calculator (s := dropWrite rest s) hi hv
  | true =>
    cases i with
    | calculate =>
      exact (execCalc_valid (dropWrite rest s) hv).trans
        (calculateMessage_dropWrite rest ((execCalc_valid s hv).symm.trans h))
    | calcd =>
      exact (execCalcd_valid (dropWrite rest s) hv).trans
        (calculateMessage_dropWrite rest ((execCalcd_valid s hv).symm.trans h))
    | calct =>
      obtain hw | hw := Nat.lt_or_ge 7 s.act.width.toNat
      · exact (execCalct_wide (dropWrite rest s) hv hw).trans
          (calculateMessage_dropWrite rest ((execCalct_wide s hv hw).symm.trans h))
      · cases (execCalct_narrow s hv hw).symm.trans h
        exact execCalct_narrow (dropWrite rest s) hv hw
    | check =>
      cases (execCheck_valid s hv).symm.trans h
      exact execCheck_valid (dropWrite rest s) hv
    | cfg | lookup | enum | reflect => cases hi

/-- A command reads neither HAZ nor FAULTS nor the HOST's program: it ends as it would have without the dropped write, but
for those. -/
theorem exec_dropWrite {i : Instr} (h : exec i s = .next t) :
    exec i (dropWrite rest s) = .next (dropWrite rest t) := by
  cases i with
  | cfg => exact execCfg_dropWrite rest h
  | lookup => exact execLookup_dropWrite rest h
  | enum k => exact execEnum_dropWrite rest h
  | reflect w => exact execReflect_dropWrite rest h
  | calculate | calct | calcd | check => exact execCrc_dropWrite rest rfl h

end

/-- Settles O50: the write is a hazard, which no command reads. -/
theorem writeWhileBusyIsDropped : Obligations.WriteWhileBusyIsDropped := by
  refine fun s a n v rest he hb ht => ⟨?_, fun i t u hx hx' => ?_⟩
  · rw [step_cons s he, applyEvent, hostWrite_busy (s := { s with events := rest }) v ht hb]
    rfl
  · exact Host.Outcome.next.inj (hx'.symm.trans (exec_dropWrite rest hx))

end Sys2Proof.Machine
end
